-- ==== Sys2Proof/Word.lean ====
section
/-! DEFINITION. The one word type of the block: the unsigned byte. -/

namespace Sys2Proof

/-- An unsigned 8-bit value; bit 7 is the most significant (00_scope.md R10, 20_memory.md R41). -/
abbrev Byte := BitVec 8

end Sys2Proof
end

