-- ==== Sys2Proof/Config.lean ====
section
/-! DEFINITION. The fixed constants of the block (00_scope.md R8) and the type of its two parameters (R9). -/

namespace Sys2Proof

/-- Opens a frame; never escaped (00_scope.md R8, 30_encoding.md R60). UNVERIFIED literal, log 21. -/
abbrev START : Byte := 0x7D#8

/-- Closes a frame; never escaped (00_scope.md R8, 30_encoding.md R60). UNVERIFIED literal, log 21. -/
abbrev FINISH : Byte := 0x7E#8

/-- First byte of an escape pair (00_scope.md R8, 30_encoding.md R63). UNVERIFIED literal, log 21. -/
abbrev ESCAPE : Byte := 0x7F#8

/-- The escape mask: the second byte of a pair is `b XOR 0x20` (00_scope.md R8, 30_encoding.md R63). -/
abbrev ESC_MASK : Byte := 0x20#8

/-- The CRC polynomial constant, its `x^8` term implicit (40_checksum.md R83). -/
abbrev CRC_POLY : Byte := 0x85#8

/-- The CRC accumulator's initial value: 0, not 0xFF (40_checksum.md R82; 90_conflicts.md C8). -/
abbrev CRC_INIT : Byte := 0x00#8

/-- A parameter's value: a natural number, or `∞` (00_scope.md R9). -/
inductive Limit where
  | finite (n : Nat)
  | unbounded
  deriving DecidableEq, Repr

/-- `n ≤ l`, true of every `n` when `l` is `∞`. -/
def Limit.admits : Limit → Nat → Bool
  | .finite m, n => decide (n ≤ m)
  | .unbounded, _ => true

/-- The two implementation parameters, fixed for the life of an instance (00_scope.md R9, 70_reset_and_hazards.md R163). -/
structure Params where
  /-- `BUF_CAP`: the largest number of bytes the decoder buffer may hold. -/
  bufCap : Limit
  /-- `PAYLOAD_MAX`: the longest payload ENCODE accepts. -/
  payloadMax : Limit
  deriving DecidableEq, Repr

/-- Both parameters at the reference value `∞`: "exactly the document's" block (00_scope.md R9). -/
def Params.reference : Params := { bufCap := .unbounded, payloadMax := .unbounded }

/-- `BUF_CAP` is at least 1 (00_scope.md R9); `PAYLOAD_MAX` may be any natural number. -/
def Params.wf (p : Params) : Bool := p.bufCap.admits 1

end Sys2Proof
end

