-- ==== Sys2Proof/Syntax.lean ====
section
/-! DEFINITION. Instructions, the words that carry them, the byte classes, and the operation-sequence notation. -/

namespace Sys2Proof

/-- One constructor per mnemonic of spec/opcode_table.json. A mnemonic with several rows (one per value range,
30_encoding.md R75) is one constructor whose byte operand runs over all of them. -/
inductive Instr where
  /-- FEED_BYTE `d` (42_decoder.md R100). -/
  | feedByte (d : Byte)
  /-- AVAILABLE (43_decoder_access.md R131). -/
  | available
  /-- TAKE (43_decoder_access.md R132). -/
  | take
  /-- ENCODE of payload `P` with Index `i` (41_encoder.md R92). -/
  | encode (i : Byte) (P : List Byte)
  /-- A reserved operation code `1xx` (30_encoding.md R72). -/
  | reservedOpc (opc : BitVec 3)
  /-- The reset input asserted (70_reset_and_hazards.md R160). -/
  | reset
  /-- The byte START arrives at the decoder (42_decoder.md R101, R104). -/
  | dStart
  /-- The byte FINISH arrives at the decoder (42_decoder.md R102, R103). -/
  | dFinish
  /-- Any other byte arrives at the decoder (42_decoder.md R102, R105, R106). -/
  | dData (d : Byte)
  /-- STUFF1 on a reserved byte (41_encoder.md R90). -/
  | sReserved (b : Byte)
  /-- STUFF1 on any other byte (41_encoder.md R90). -/
  | sLiteral (b : Byte)
  /-- UNSTUFF reads ESCAPE; `x` is the byte after it, `none` at the end of the sequence (42_decoder.md R114, R113). -/
  | uEscape (x : Option Byte)
  /-- UNSTUFF reads any other byte (42_decoder.md R114). -/
  | uLiteral (b : Byte)
  deriving DecidableEq, Repr

/-- The five fields the opcode table's rows apply to (30_encoding.md R75). -/
inductive Format where
  | hostop | ctrl | wire8 | stuff8 | unstuff8
  deriving DecidableEq, Repr

/-- What carries one instruction, one constructor per format of 30_encoding.md R75. DESIGN CHOICE, log 1. -/
inductive CommandWord where
  /-- `opc[2:0]` and the operand bytes: `d` for FEED_BYTE, `i` then the payload for ENCODE (30_encoding.md R71). -/
  | hostop (opc : BitVec 3) (operands : List Byte)
  /-- The 1-bit reset input `rst` (30_encoding.md R71). -/
  | ctrl (rst : BitVec 1)
  /-- The byte given to FEED_BYTE (30_encoding.md R66). -/
  | wire8 (d : Byte)
  /-- The byte given to STUFF1 (30_encoding.md R67). -/
  | stuff8 (b : Byte)
  /-- A buffer byte read by UNSTUFF, and the byte after it if there is one (30_encoding.md R67). -/
  | unstuff8 (b : Byte) (next : Option Byte)
  deriving DecidableEq, Repr

/-- What the host can issue: an operation code with its operand bytes, or the reset input. The host has the four operations and RESET
and nothing else (30_encoding.md R70, R71), so a word of another format is none of the host's. -/
inductive HostWord where
  | hostop (opc : BitVec 3) (operands : List Byte)
  | ctrl (rst : BitVec 1)
  deriving DecidableEq, Repr

/-- What stands at the input of a unit inside the block: a byte given to the decoder's state machine, to STUFF1 or to UNSTUFF
(30_encoding.md R66, R67). None of it is a host operation (30_encoding.md R70; log 22). -/
inductive UnitWord where
  | wire8 (d : Byte)
  | stuff8 (b : Byte)
  | unstuff8 (b : Byte) (next : Option Byte)
  deriving DecidableEq, Repr

/-- The format of a word. -/
def CommandWord.format : CommandWord → Format
  | .hostop _ _ => .hostop
  | .ctrl _ => .ctrl
  | .wire8 _ => .wire8
  | .stuff8 _ => .stuff8
  | .unstuff8 _ _ => .unstuff8

/-- Why a word is no instruction. -/
inductive DecodeError where
  /-- FEED_BYTE without its byte, or ENCODE without its Index. -/
  | missingOperand
  /-- Operand bytes on an operation that has none, or a second byte on FEED_BYTE. -/
  | unexpectedOperand
  /-- `rst = 0`: the reset input is not asserted, so no operation is meant. -/
  | resetNotAsserted
  deriving DecidableEq, Repr

/-- The decoder's byte classes D_START, D_FINISH, D_DATA (30_encoding.md R66). -/
inductive WireClass where
  | start | finish | data
  deriving DecidableEq, Repr

/-- The stuffing classes S_RESERVED, S_LITERAL (30_encoding.md R67). -/
inductive StuffClass where
  | reserved | literal
  deriving DecidableEq, Repr

/-- The unstuffing classes U_ESCAPE, U_LITERAL (30_encoding.md R67). -/
inductive UnstuffClass where
  | escape | literal
  deriving DecidableEq, Repr

/-- One row of spec/opcode_table.json: a value `v` of the format's field matches when `v & mask = pattern` (30_encoding.md R75). -/
structure TableRow where
  mnemonic : String
  format : Format
  pattern : Nat
  mask : Nat
  deriving DecidableEq, Repr

/-- One line of the operation-sequence notation (30_encoding.md R74); `feed` is the pseudo-operation FEED. -/
inductive Line where
  | encode (i : Byte) (P : List Byte)
  | feedByte (d : Byte)
  | feed (ds : List Byte)
  | available
  | take
  | reset
  deriving DecidableEq, Repr

end Sys2Proof
end

