-- ==== Sys2Proof/WellFormed.lean ====
section
/-! DEFINITION. Which terms of Instr stand for an instruction of the table: the operand lies in the mnemonic's class. -/

namespace Sys2Proof

/-- An operand that a mnemonic's rows exclude makes the term ill-formed (30_encoding.md R66, R67, R71). Every byte is a legal
operand of FEED_BYTE, and every byte sequence of ENCODE (30_encoding.md R69): PAYLOAD_MAX is a parameter of the instance, so a
payload longer than it is refused when ENCODE runs, not here. -/
def Instr.wellFormed : Instr → Bool
  | .feedByte _ => true
  | .available => true
  | .take => true
  | .encode _ _ => true
  | .reservedOpc opc => opc.getLsbD 2
  | .reset => true
  | .dStart => true
  | .dFinish => true
  | .dData d => decide (d ≠ START ∧ d ≠ FINISH)
  | .sReserved b => decide (b = START ∨ b = FINISH ∨ b = ESCAPE)
  | .sLiteral b => decide (b ≠ START ∧ b ≠ FINISH ∧ b ≠ ESCAPE)
  | .uEscape _ => true
  | .uLiteral b => decide (b ≠ ESCAPE)

end Sys2Proof
end

