-- ==== Sys2Proof/Decode.lean ====
section
/-! DEFINITION. Byte classes, the decoder from command words to instructions, the encoder back, and the opcode table as data. -/

namespace Sys2Proof

/-- D_START, D_FINISH or D_DATA, by exact value; ESCAPE is a data byte to the state machine (30_encoding.md R66). -/
def wireClass (d : Byte) : WireClass :=
  if d = START then .start else if d = FINISH then .finish else .data

/-- `RESERVED(b) = (0x7D ≤ b ≤ 0x7F)` (30_encoding.md R62). -/
def reserved (b : Byte) : Bool := decide (0x7D#8 ≤ b ∧ b ≤ 0x7F#8)

/-- S_RESERVED or S_LITERAL (30_encoding.md R67). -/
def stuffClass (b : Byte) : StuffClass :=
  if reserved b then .reserved else .literal

/-- U_ESCAPE or U_LITERAL (30_encoding.md R67). -/
def unstuffClass (b : Byte) : UnstuffClass :=
  if b = ESCAPE then .escape else .literal

/-- A HOSTOP word: the operation code is looked at before any operand is read, so a reserved code is that whatever follows
(30_encoding.md R71, R72; 60_exceptions.md R147). Operand bytes that do not fit the code are rejected by name (log 11). -/
def decodeHostop (opc : BitVec 3) (operands : List Byte) : Except DecodeError Instr :=
  if opc = 0b000#3 then
    match operands with
    | [d] => .ok (.feedByte d)
    | [] => .error .missingOperand
    | _ :: _ :: _ => .error .unexpectedOperand
  else if opc = 0b001#3 then
    match operands with
    | [] => .ok .available
    | _ :: _ => .error .unexpectedOperand
  else if opc = 0b010#3 then
    match operands with
    | [] => .ok .take
    | _ :: _ => .error .unexpectedOperand
  else if opc = 0b011#3 then
    match operands with
    | i :: P => .ok (.encode i P)
    | [] => .error .missingOperand
  else .ok (.reservedOpc opc)

/-- The instruction a word spells, or why it spells none. Total on every word (30_encoding.md R66, R67, R69, R71, R72). -/
def decode : CommandWord → Except DecodeError Instr
  | .hostop opc operands => decodeHostop opc operands
  | .ctrl rst => if rst = 1#1 then .ok .reset else .error .resetNotAsserted
  | .wire8 d =>
    match wireClass d with
    | .start => .ok .dStart
    | .finish => .ok .dFinish
    | .data => .ok (.dData d)
  | .stuff8 b =>
    match stuffClass b with
    | .reserved => .ok (.sReserved b)
    | .literal => .ok (.sLiteral b)
  | .unstuff8 b next =>
    match unstuffClass b with
    | .escape => .ok (.uEscape next)
    | .literal => .ok (.uLiteral b)

/-- The word of a well-formed instruction (30_encoding.md R66, R67, R71). -/
def encode : Instr → CommandWord
  | .feedByte d => .hostop 0b000#3 [d]
  | .available => .hostop 0b001#3 []
  | .take => .hostop 0b010#3 []
  | .encode i P => .hostop 0b011#3 (i :: P)
  | .reservedOpc opc => .hostop opc []
  | .reset => .ctrl 1#1
  | .dStart => .wire8 START
  | .dFinish => .wire8 FINISH
  | .dData d => .wire8 d
  | .sReserved b => .stuff8 b
  | .sLiteral b => .stuff8 b
  | .uEscape x => .unstuff8 ESCAPE x
  | .uLiteral b => .unstuff8 b none

/-- A host's word among all words. -/
def HostWord.word : HostWord → CommandWord
  | .hostop opc operands => .hostop opc operands
  | .ctrl rst => .ctrl rst

/-- A unit's word among all words. -/
def UnitWord.word : UnitWord → CommandWord
  | .wire8 d => .wire8 d
  | .stuff8 b => .stuff8 b
  | .unstuff8 b next => .unstuff8 b next

/-- The instruction is one of the host's four operations or RESET (30_encoding.md R70). -/
def Instr.isHostOperation : Instr → Bool
  | .feedByte _ => true
  | .available => true
  | .take => true
  | .encode _ _ => true
  | .reservedOpc _ => false
  | .reset => true
  | .dStart => false
  | .dFinish => false
  | .dData _ => false
  | .sReserved _ => false
  | .sLiteral _ => false
  | .uEscape _ => false
  | .uLiteral _ => false

/-- The table's spelling of an instruction's mnemonic. -/
def Instr.mnemonic : Instr → String
  | .feedByte _ => "FEED_BYTE"
  | .available => "AVAILABLE"
  | .take => "TAKE"
  | .encode _ _ => "ENCODE"
  | .reservedOpc _ => "RESERVED_OPC"
  | .reset => "RESET"
  | .dStart => "D_START"
  | .dFinish => "D_FINISH"
  | .dData _ => "D_DATA"
  | .sReserved _ => "S_RESERVED"
  | .sLiteral _ => "S_LITERAL"
  | .uEscape _ => "U_ESCAPE"
  | .uLiteral _ => "U_LITERAL"

/-- The value a word gives the field that its format's rows apply to (30_encoding.md R75). -/
def CommandWord.field : CommandWord → Nat
  | .hostop opc _ => opc.toNat
  | .ctrl rst => rst.toNat
  | .wire8 d => d.toNat
  | .stuff8 b => b.toNat
  | .unstuff8 b _ => b.toNat

/-- The HOSTOP rows of spec/opcode_table.json (30_encoding.md R75). -/
def hostopRows : List TableRow := [
  ⟨"FEED_BYTE", .hostop, 0x00, 0x07⟩,
  ⟨"AVAILABLE", .hostop, 0x01, 0x07⟩,
  ⟨"TAKE", .hostop, 0x02, 0x07⟩,
  ⟨"ENCODE", .hostop, 0x03, 0x07⟩,
  ⟨"RESERVED_OPC", .hostop, 0x04, 0x04⟩]

/-- The CTRL rows of spec/opcode_table.json (30_encoding.md R75). -/
def ctrlRows : List TableRow := [
  ⟨"RESET", .ctrl, 0x01, 0x01⟩]

/-- The WIRE8 rows of spec/opcode_table.json (30_encoding.md R75). -/
def wire8Rows : List TableRow := [
  ⟨"D_START", .wire8, 0x7D, 0xFF⟩,
  ⟨"D_FINISH", .wire8, 0x7E, 0xFF⟩,
  ⟨"D_DATA", .wire8, 0x00, 0xC0⟩,
  ⟨"D_DATA", .wire8, 0x40, 0xE0⟩,
  ⟨"D_DATA", .wire8, 0x60, 0xF0⟩,
  ⟨"D_DATA", .wire8, 0x70, 0xF8⟩,
  ⟨"D_DATA", .wire8, 0x78, 0xFC⟩,
  ⟨"D_DATA", .wire8, 0x7C, 0xFF⟩,
  ⟨"D_DATA", .wire8, 0x7F, 0xFF⟩,
  ⟨"D_DATA", .wire8, 0x80, 0x80⟩]

/-- The STUFF8 rows of spec/opcode_table.json (30_encoding.md R75). -/
def stuff8Rows : List TableRow := [
  ⟨"S_RESERVED", .stuff8, 0x7D, 0xFF⟩,
  ⟨"S_RESERVED", .stuff8, 0x7E, 0xFF⟩,
  ⟨"S_RESERVED", .stuff8, 0x7F, 0xFF⟩,
  ⟨"S_LITERAL", .stuff8, 0x00, 0xC0⟩,
  ⟨"S_LITERAL", .stuff8, 0x40, 0xE0⟩,
  ⟨"S_LITERAL", .stuff8, 0x60, 0xF0⟩,
  ⟨"S_LITERAL", .stuff8, 0x70, 0xF8⟩,
  ⟨"S_LITERAL", .stuff8, 0x78, 0xFC⟩,
  ⟨"S_LITERAL", .stuff8, 0x7C, 0xFF⟩,
  ⟨"S_LITERAL", .stuff8, 0x80, 0x80⟩]

/-- The UNSTUFF8 rows of spec/opcode_table.json (30_encoding.md R75). -/
def unstuff8Rows : List TableRow := [
  ⟨"U_ESCAPE", .unstuff8, 0x7F, 0xFF⟩,
  ⟨"U_LITERAL", .unstuff8, 0x00, 0xC0⟩,
  ⟨"U_LITERAL", .unstuff8, 0x40, 0xE0⟩,
  ⟨"U_LITERAL", .unstuff8, 0x60, 0xF0⟩,
  ⟨"U_LITERAL", .unstuff8, 0x70, 0xF8⟩,
  ⟨"U_LITERAL", .unstuff8, 0x78, 0xFC⟩,
  ⟨"U_LITERAL", .unstuff8, 0x7C, 0xFE⟩,
  ⟨"U_LITERAL", .unstuff8, 0x7E, 0xFF⟩,
  ⟨"U_LITERAL", .unstuff8, 0x80, 0x80⟩]

/-- All 35 rows of spec/opcode_table.json, in its order. -/
def opcodeTable : List TableRow :=
  hostopRows ++ ctrlRows ++ wire8Rows ++ stuff8Rows ++ unstuff8Rows

/-- `v` matches a row when `v & mask = match` (30_encoding.md R75). -/
def TableRow.covers (r : TableRow) (v : Nat) : Bool := v &&& r.mask == r.pattern

/-- The mnemonics of the table's rows that a word's field matches, within the word's own format (30_encoding.md R75). -/
def CommandWord.rowMnemonics (w : CommandWord) : List String :=
  ((opcodeTable.filter fun r => r.format == w.format && r.covers w.field)).map TableRow.mnemonic

/-- The operand bytes of a HOSTOP operation with all their bits zero: one byte for FEED_BYTE, the Index (and an empty payload)
for ENCODE, none for the others (30_encoding.md R71). -/
def zeroOperands (opc : BitVec 3) : List Byte :=
  if opc = 0b000#3 ∨ opc = 0b011#3 then [0#8] else []

/-- The word of format `f` whose field holds the low bits of `w`, operands all zero. -/
def wordIn (f : Format) (w : Nat) : CommandWord :=
  match f with
  | .hostop => .hostop (BitVec.ofNat 3 w) (zeroOperands (BitVec.ofNat 3 w))
  | .ctrl => .ctrl (BitVec.ofNat 1 w)
  | .wire8 => .wire8 (BitVec.ofNat 8 w)
  | .stuff8 => .stuff8 (BitVec.ofNat 8 w)
  | .unstuff8 => .unstuff8 (BitVec.ofNat 8 w) none

/-- The format a bare number is read in. The table's five formats share one number space, and a number does not say its format:
a number below 8 is read as a 3-bit operation code, a larger one as a byte on the wire; a number given as 3 bits or 1 bit wide is
HOSTOP or CTRL. DESIGN CHOICE, log 10. -/
def tableFormat (nbits w : Nat) : Format :=
  if nbits = 1 then .ctrl else if nbits = 3 ∨ w < 8 then .hostop else .wire8

/-- The word that a table number stands for (log 10). -/
def tableWord (nbits w : Nat) : CommandWord := wordIn (tableFormat nbits w) w

/-- What the decoder reads from a table number, `none` where it rejects the word. -/
def decodeTableWord (nbits w : Nat) : Option Instr := (decode (tableWord nbits w)).toOption

/-- The instructions of one line; FEED is one FEED_BYTE per byte, first byte first (30_encoding.md R74; 43_decoder_access.md R130). -/
def Line.expand : Line → List Instr
  | .encode i P => [.encode i P]
  | .feedByte d => [.feedByte d]
  | .feed ds => ds.map .feedByte
  | .available => [.available]
  | .take => [.take]
  | .reset => [.reset]

end Sys2Proof
end

