-- ==== Sys2Proof/Machine/State.lean ====
section
/-! DEFINITION. The state of one instance, what its operations return, and the reasons a step can be refused. -/

namespace Sys2Proof.Machine

/-- TAKE's status (30_encoding.md R73, 60_exceptions.md R141). -/
inductive Status where
  | ok | notReady
  deriving DecidableEq, Repr

/-- What the last operation returned to the host (30_encoding.md R70, R73). The model's own field, log 3. -/
inductive Result where
  /-- FEED_BYTE and RESET return nothing. -/
  | nothing
  /-- AVAILABLE's bit. -/
  | bit (b : BitVec 1)
  /-- TAKE's status and the packet's bytes, none with NOT_READY. -/
  | taken (status : Status) (packet : List Byte)
  /-- ENCODE's frame, in wire order. -/
  | frame (bytes : List Byte)
  deriving DecidableEq, Repr

/-- What a STUFF8 or UNSTUFF8 row emitted inside its unit (30_encoding.md R67). The model's own field, log 8. -/
inductive Emission where
  | nothing
  | bytes (bs : List Byte)
  /-- UNSTUFF's FAIL: an ESCAPE with no byte after it (42_decoder.md R113, R114). -/
  | fail
  deriving DecidableEq, Repr

/-- What comes to the instance at one time. The model's own, log 2, log 5 and log 22. Only `op` and `overlap` are the host's, and a
`HostWord` is all the host can issue (30_encoding.md R70). -/
inductive Arrival where
  /-- The host issues one operation, after the one before it has completed (20_memory.md R47). -/
  | op (w : HostWord)
  /-- The host issues two operations that overlap in time (20_memory.md R48). -/
  | overlap (w₁ w₂ : HostWord)
  /-- Not the host's: a byte is put straight at the input of a unit inside the block (log 22). -/
  | atUnit (u : UnitWord)
  deriving DecidableEq, Repr

/-- The label of one FEED_BYTE step: a model-only observation, never host-visible (42_decoder.md R120). -/
inductive Label where
  | openFrame | ignore | restart | append | overflow | dropCrc | dropEsc | dropEmpty | accept
  deriving DecidableEq, Repr

/-- How a frame closure ends (42_decoder.md R107 to R116). -/
inductive Closure where
  | dropCrc | dropEsc | dropEmpty
  | accept (p : List Byte)
  deriving DecidableEq, Repr

/-- One instance: the decoder session state of 10_state.md R20 (the first four fields), its two parameters (00_scope.md R9), and
the host's side of the interface (the last three fields, the model's own, log 2, log 3 and log 8). -/
structure State where
  /-- Currently inside an open frame: `false` is IDLE, `true` is IN_FRAME (10_state.md R21). -/
  processing : Bool
  /-- The wire bytes of the open frame since its START, still stuffed (10_state.md R22). -/
  buffer : List Byte
  /-- The packet slot: `[Index, payload...]` of the last accepted frame not yet taken (10_state.md R23). -/
  lastPacket : Option (List Byte)
  /-- A decoded packet is held (10_state.md R24). -/
  available : Bool
  /-- BUF_CAP and PAYLOAD_MAX, never written (00_scope.md R9, 70_reset_and_hazards.md R163). -/
  params : Params
  /-- What the host issues to this instance, oldest first (20_memory.md R47), and what is put at a unit's input (log 22). -/
  pending : List Arrival
  /-- What the last operation returned (30_encoding.md R73). -/
  result : Result
  /-- What the last STUFF8 or UNSTUFF8 row emitted; not host-visible (30_encoding.md R67). -/
  emitted : Emission
  deriving DecidableEq, Repr

/-- No condition stops the block (93_implementation_defined.md: "`fault` is not used"), so there is no fault: nobody raises one. -/
inductive Fault where
  deriving DecidableEq, Repr

/-- The inputs that have no meaning: no step is given and the refusal is recorded (00_scope.md R14). -/
inductive Refusal where
  /-- Raised by exec's arm of an instruction without a meaning; no arm does. Safe. -/
  | notModelled (mnemonic : String)
  /-- Raised by RESERVED_OPC: operation codes `1xx` spell no operation (30_encoding.md R72). Safe: errs toward unprovable (D2). -/
  | reservedOpcode
  /-- Raised by ENCODE when the payload is longer than PAYLOAD_MAX (41_encoder.md R93). Safe: errs toward unprovable (D5). -/
  | payloadTooLong
  /-- Raised by step when two operations overlap in time (20_memory.md R48). Safe: the overlap gets no meaning. -/
  | overlap
  /-- Raised by step on a HOSTOP word whose operand bytes do not fit its operation (log 11). Safe. -/
  | undecodable (e : DecodeError)
  deriving DecidableEq, Repr

/-- What the next arrival asks of the machine. -/
inductive Fetched where
  /-- Nothing is pending. -/
  | idle
  /-- Two overlapping operations. -/
  | overlapping
  /-- A word that is no instruction. -/
  | unread (e : DecodeError)
  /-- A word that asks for nothing; `s'` is the state with it taken off. -/
  | quiet (s' : State)
  /-- An instruction, and the state with its word taken off. -/
  | instr (i : Instr) (s' : State)
  deriving DecidableEq, Repr

/-- A new instance with the given parameters (70_reset_and_hazards.md R161, 10_state.md R32, 00_scope.md R9); the model's own three
fields start empty (DESIGN CHOICE, log 2, log 3, log 8). -/
def State.fresh (p : Params) : State :=
  { processing := false
    buffer := []
    lastPacket := none
    available := false
    params := p
    pending := []
    result := .nothing
    emitted := .nothing }

/-- The machine right after reset: the reset values of 10_state.md R32, and both parameters at their reference value
(00_scope.md R9; DESIGN CHOICE, log 4). -/
def State.reset : State := State.fresh Params.reference

end Sys2Proof.Machine
end

