-- ==== Sys2Proof/Machine/Operands.lean ====
section
/-! DEFINITION. How operations reach their operands: the buffer's reads, the two capacity tests, and the numeric result codes. -/

namespace Sys2Proof.Machine

/-- `last(buffer)` (20_memory.md R45). -/
def bufLast (B : List Byte) : Option Byte := B.getLast?

/-- `buffer[len(buffer)-2]`, the second-to-last byte; none when there is none (20_memory.md R45; 42_decoder.md R109). -/
def bufSecondToLast (B : List Byte) : Option Byte :=
  if 2 ≤ B.length then B[B.length - 2]? else none

/-- `buffer[0..k)` (20_memory.md R45). -/
def bufFirst (B : List Byte) (k : Nat) : List Byte := B.take k

/-- `len(buffer) < BUF_CAP` (42_decoder.md R105). -/
def State.hasRoom (s : State) : Bool := s.params.bufCap.admits (s.buffer.length + 1)

/-- `len(P) ≤ PAYLOAD_MAX` (41_encoder.md R92, R93). -/
def State.payloadFits (s : State) (P : List Byte) : Bool := s.params.payloadMax.admits P.length

/-- `OK = 0`, `NOT_READY = 1` (30_encoding.md R73, 60_exceptions.md R141). -/
def Status.code : Status → Nat
  | .ok => 0
  | .notReady => 1

/-- A flag as AVAILABLE returns it: 1 for true, 0 for false (30_encoding.md R73). -/
def flagBit (b : Bool) : BitVec 1 := if b then 1#1 else 0#1

/-- The packet a TAKE would return: one is held when `available` is true and the slot is filled (43_decoder_access.md R132, R134).
With `available` true and an empty slot, which 10_state.md R26 rules out, no packet is held (DESIGN CHOICE, log 6). -/
def State.heldPacket (s : State) : Option (List Byte) :=
  if s.available then s.lastPacket else none

end Sys2Proof.Machine
end

