-- ==== Sys2Proof/Machine/Flags.lean ====
section
/-! DEFINITION. The named writes of the state: the two flags with the store each goes with, and the model's two output fields. -/

namespace Sys2Proof.Machine

/-- Into IN_FRAME with a new frame: `processing <- true`, `BufSet([START])` (42_decoder.md R101). -/
def State.openFrame (s : State) : State := { s with processing := true, buffer := [START] }

/-- `BufSet([START])` alone: the open frame is given up, `processing` stays as it is (42_decoder.md R104). -/
def State.restartFrame (s : State) : State := { s with buffer := [START] }

/-- `BufAppend(d)` (42_decoder.md R105, 20_memory.md R45). -/
def State.bufAppend (s : State) (d : Byte) : State := { s with buffer := s.buffer ++ [d] }

/-- Into IDLE: `processing <- false`, `BufSet([])`. The one way out of a frame, shared by every closure and by the overflow
(42_decoder.md R106, R107; 10_state.md R27 part c). -/
def State.toIdle (s : State) : State := { s with processing := false, buffer := [] }

/-- `lastPacket <- some(p)`, `available <- true`; a packet already held is overwritten (42_decoder.md R116). -/
def State.hold (s : State) (p : List Byte) : State := { s with lastPacket := some p, available := true }

/-- `available <- false`, `lastPacket <- none` (43_decoder_access.md R133). -/
def State.release (s : State) : State := { s with lastPacket := none, available := false }

/-- The operation returns `r` to the host. -/
def State.answer (s : State) (r : Result) : State := { s with result := r }

/-- A unit emits `e`. -/
def State.emit (s : State) (e : Emission) : State := { s with emitted := e }

end Sys2Proof.Machine
end

