-- ==== Sys2Proof/Machine/Checksum.lean ====
section
/-! DEFINITION. The CRC8 checksum generator (40_checksum.md): MSB-first, no reflection, initial value 0, no final XOR. -/

namespace Sys2Proof.Machine

/-- One of the eight shifts of CRC_STEP: `acc << 1` is the 9-bit `2·acc` (00_scope.md R11), and `& 0xFF` keeps its low 8 bits
(40_checksum.md R81). -/
def crcShift (acc : Byte) : Byte :=
  let doubled : BitVec 9 := acc.setWidth 9 <<< 1
  if acc &&& 0x80#8 ≠ 0#8 then (doubled ^^^ CRC_POLY.setWidth 9).setWidth 8 else doubled.setWidth 8

/-- `n` shifts. -/
def crcShifts : Nat → Byte → Byte
  | 0, acc => acc
  | n + 1, acc => crcShifts n (crcShift acc)

/-- `CRC_STEP(acc, b)` (40_checksum.md R81). -/
def crcStep (acc b : Byte) : Byte := crcShifts 8 (acc ^^^ b)

/-- `CRC8(s)`: CRC_STEP over the bytes in order from accumulator 0 (40_checksum.md R81, R82). -/
def crc8 (s : List Byte) : Byte := s.foldl crcStep CRC_INIT

end Sys2Proof.Machine
end

