-- ==== Sys2Proof/Machine/Stuffing.lean ====
section
/-! DEFINITION. The escape transform, its inverse, and the frame (41_encoder.md; 42_decoder.md R114). -/

namespace Sys2Proof.Machine

/-- `STUFF1(b)` (41_encoder.md R90). -/
def stuff1 (b : Byte) : List Byte :=
  match stuffClass b with
  | .reserved => [ESCAPE, b ^^^ ESC_MASK]
  | .literal => [b]

/-- `STUFF(s)`: each byte on its own, independently of its neighbours (41_encoder.md R91). -/
def stuff : List Byte → List Byte
  | [] => []
  | b :: t => stuff1 b ++ stuff t

/-- `UNSTUFF(s)`, `none` for FAIL: left to right, ESCAPE always consumes the byte after it, whatever that byte is
(42_decoder.md R114; D14). -/
def unstuff : List Byte → Option (List Byte)
  | [] => some []
  | [b] =>
    match unstuffClass b with
    | .escape => none
    | .literal => some [b]
  | b :: x :: t =>
    match unstuffClass b with
    | .escape => (unstuff t).map ((x ^^^ ESC_MASK) :: ·)
    | .literal => (unstuff (x :: t)).map (b :: ·)

/-- `[START] ++ STUFF1(i) ++ STUFF(P)`: what the CRC covers (41_encoder.md R92 steps 1 to 3, R95). -/
def frameBody (P : List Byte) (i : Byte) : List Byte := [START] ++ (stuff1 i ++ stuff P)

/-- The frame of payload `P` with Index `i` (41_encoder.md R92 steps 4 to 6; 30_encoding.md R60). -/
def frameOf (P : List Byte) (i : Byte) : List Byte :=
  frameBody P i ++ stuff1 (crc8 (frameBody P i)) ++ [FINISH]

end Sys2Proof.Machine
end

