-- ==== Sys2Proof/Machine/Ops.lean ====
section
/-! DEFINITION. The shared operations of the decoder: one byte of each class, frame closure, the step label, the reset input, and
taking the next command off the host's list. The block has no exception entry (60_exceptions.md R148): what handles a condition here
is `State.toIdle` (every drop) and TAKE's status. -/

namespace Sys2Proof.Machine

/-- The received CRC and the body left when its field is removed; the test reads the second-to-last byte only
(42_decoder.md R108, R109). `none` for an empty buffer, which 10_state.md R25 rules out at a closure (log 7). -/
def crcExtract (B : List Byte) : Option (Byte × List Byte) :=
  match bufLast B with
  | none => none
  | some c =>
    if bufSecondToLast B = some ESCAPE then some (c ^^^ ESC_MASK, bufFirst B (B.length - 2))
    else some (c, bufFirst B (B.length - 1))

/-- The packet check of a body whose CRC matched: trailing escape, then empty packet (42_decoder.md R112 to R116;
60_exceptions.md R146). -/
def closeBody (body : List Byte) : Closure :=
  match unstuff body with
  | none => .dropEsc
  | some u =>
    match u.drop 1 with
    | [] => .dropEmpty
    | i :: P => .accept (i :: P)

/-- CLOSE's decision on the buffer: CRC check first (42_decoder.md R110, R111; 60_exceptions.md R146). -/
def closeFrame (B : List Byte) : Closure :=
  match crcExtract B with
  | none => .dropCrc
  | some (crcRx, body) => if crc8 body = crcRx then closeBody body else .dropCrc

/-- CLOSE: always into IDLE; the packet slot is written on an accept only (42_decoder.md R107, R111, R113, R115, R116). -/
def State.close (s : State) : State :=
  match closeFrame s.buffer with
  | .dropCrc => s.toIdle
  | .dropEsc => s.toIdle
  | .dropEmpty => s.toIdle
  | .accept p => s.toIdle.hold p

/-- The byte START: opens a frame, or restarts the open one (42_decoder.md R101, R104; 90_conflicts.md C1). -/
def State.feedStart (s : State) : State :=
  if s.processing then s.restartFrame else s.openFrame

/-- The byte FINISH: ignored in IDLE, closes the open frame (42_decoder.md R102, R103). -/
def State.feedFinish (s : State) : State :=
  if s.processing then s.close else s

/-- Any other byte: ignored in IDLE, appended if there is room, else the frame is abandoned (42_decoder.md R102, R105, R106). -/
def State.feedData (s : State) (d : Byte) : State :=
  if s.processing then
    if s.hasRoom then s.bufAppend d else s.toIdle
  else s

/-- FEED_BYTE on the session state (42_decoder.md R100). -/
def State.feedByte (s : State) (d : Byte) : State :=
  match wireClass d with
  | .start => s.feedStart
  | .finish => s.feedFinish
  | .data => s.feedData d

/-- FEED: one FEED_BYTE per byte, first byte first (43_decoder_access.md R130). -/
def State.feed (s : State) (ds : List Byte) : State := ds.foldl State.feedByte s

/-- The label of a closure (42_decoder.md R120). -/
def Closure.label : Closure → Label
  | .dropCrc => .dropCrc
  | .dropEsc => .dropEsc
  | .dropEmpty => .dropEmpty
  | .accept _ => .accept

/-- The one label of the FEED_BYTE step on `d` from `s`: state, then byte class, then capacity or closure
(42_decoder.md R120; 60_exceptions.md R146). -/
def State.feedLabel (s : State) (d : Byte) : Label :=
  if s.processing then
    match wireClass d with
    | .finish => (closeFrame s.buffer).label
    | .start => .restart
    | .data => if s.hasRoom then .append else .overflow
  else if d = START then .openFrame
  else .ignore

/-- RESET on the session state: the four fields at their reset values (70_reset_and_hazards.md R160); the parameters stay
(R163), and what the host has yet to issue is the host's (log 2). -/
def State.resetSession (s : State) : State := s.toIdle.release

/-- The one word of an arrival, none where two operations overlap. -/
def Arrival.word : Arrival → Option CommandWord
  | .op w => some w.word
  | .overlap _ _ => none
  | .atUnit u => some u.word

/-- Where a word arrives: the host issues HOSTOP and CTRL words only (30_encoding.md R70); the others stand at their unit (log 22). -/
def Arrival.ofWord : CommandWord → Arrival
  | .hostop opc operands => .op (.hostop opc operands)
  | .ctrl rst => .op (.ctrl rst)
  | .wire8 d => .atUnit (.wire8 d)
  | .stuff8 b => .atUnit (.stuff8 b)
  | .unstuff8 b next => .atUnit (.unstuff8 b next)

/-- The arrival is the host's. -/
def Arrival.fromHost : Arrival → Bool
  | .op _ => true
  | .overlap _ _ => true
  | .atUnit _ => false

/-- What the next arrival asks for, oldest first (20_memory.md R47, R48; 70_reset_and_hazards.md R160). -/
def fetch (s : State) : Fetched :=
  match s.pending with
  | [] => .idle
  | a :: rest =>
    match a.word with
    | none => .overlapping
    | some w =>
      match decode w with
      | .ok i => .instr i { s with pending := rest }
      | .error .resetNotAsserted => .quiet { s with pending := rest }
      | .error e => .unread e

/-- The instructions `is` put to `s`, after whatever is already pending: the host's operations by the host, the classes of a unit at
its input. -/
def State.issue (s : State) (is : List Instr) : State :=
  { s with pending := s.pending ++ is.map fun i => Arrival.ofWord (encode i) }

/-- A program of the operation-sequence notation issued to `s`, its lines top to bottom (30_encoding.md R74). -/
def State.load (s : State) (program : List Line) : State := s.issue (program.flatMap Line.expand)

/-- A bare table number put as the very next arrival (log 10, log 14). -/
def State.issueTableWord (s : State) (nbits w : Nat) : State :=
  { s with pending := Arrival.ofWord (tableWord nbits w) :: s.pending }

end Sys2Proof.Machine
end

