-- ==== Sys2Proof/Machine/Access.lean ====
section
/-! DEFINITION. The decoder's access operations AVAILABLE and TAKE (43_decoder_access.md). -/

namespace Sys2Proof.Machine

/-- AVAILABLE returns `st.available` and writes nothing (43_decoder_access.md R131). -/
def execAvailable (s : State) : Host.Outcome State Fault Refusal :=
  .next (s.answer (.bit (flagBit s.available)))

/-- TAKE returns the held packet and empties the slot, or NOT_READY with no bytes and no state change
(43_decoder_access.md R132 to R134). -/
def execTake (s : State) : Host.Outcome State Fault Refusal :=
  match s.heldPacket with
  | some p => .next (s.release.answer (.taken .ok p))
  | none => .next (s.answer (.taken .notReady []))

end Sys2Proof.Machine
end

