-- ==== Sys2Proof/Machine/Control.lean ====
section
/-! DEFINITION. The reset input and the reserved operation codes (70_reset_and_hazards.md R160, 30_encoding.md R72). -/

namespace Sys2Proof.Machine

/-- RESET returns nothing and raises nothing (70_reset_and_hazards.md R160). -/
def execReset (s : State) : Host.Outcome State Fault Refusal :=
  .next (s.resetSession.answer .nothing)

/-- "Reserved operation codes `100` to `111` spell no operation: the model refuses them" (30_encoding.md R72). -/
def execReservedOpc (_opc : BitVec 3) (_s : State) : Host.Outcome State Fault Refusal := .refused .reservedOpcode

end Sys2Proof.Machine
end

