-- ==== Sys2Proof/Machine/Decoder.lean ====
section
/-! DEFINITION. FEED_BYTE and its three byte classes (42_decoder.md). None returns anything, raises anything or refuses a byte. -/

namespace Sys2Proof.Machine

/-- FEED_BYTE (42_decoder.md R100). -/
def execFeedByte (d : Byte) (s : State) : Host.Outcome State Fault Refusal :=
  .next ((s.feedByte d).answer .nothing)

/-- D_START: the FEED_BYTE step of the byte START (42_decoder.md R101, R104). -/
def execDStart (s : State) : Host.Outcome State Fault Refusal :=
  .next (s.feedStart.answer .nothing)

/-- D_FINISH: the FEED_BYTE step of the byte FINISH (42_decoder.md R102, R103). -/
def execDFinish (s : State) : Host.Outcome State Fault Refusal :=
  .next (s.feedFinish.answer .nothing)

/-- D_DATA: the FEED_BYTE step of any other byte (42_decoder.md R102, R105, R106). -/
def execDData (d : Byte) (s : State) : Host.Outcome State Fault Refusal :=
  .next ((s.feedData d).answer .nothing)

end Sys2Proof.Machine
end

