-- ==== Sys2Proof/Machine/Encoder.lean ====
section
/-! DEFINITION. ENCODE and the two stuffing classes (41_encoder.md). No session field is read or written. -/

namespace Sys2Proof.Machine

/-- ENCODE returns the frame; a payload longer than PAYLOAD_MAX spells no ENCODE (41_encoder.md R92, R93). -/
def execEncode (i : Byte) (P : List Byte) (s : State) : Host.Outcome State Fault Refusal :=
  if s.payloadFits P then .next (s.answer (.frame (frameOf P i))) else .refused .payloadTooLong

/-- S_RESERVED emits the escape pair (41_encoder.md R90, 30_encoding.md R67; log 8). -/
def execSReserved (b : Byte) (s : State) : Host.Outcome State Fault Refusal :=
  .next (s.emit (.bytes [ESCAPE, b ^^^ ESC_MASK]))

/-- S_LITERAL emits the byte itself (41_encoder.md R90, 30_encoding.md R67; log 8). -/
def execSLiteral (b : Byte) (s : State) : Host.Outcome State Fault Refusal :=
  .next (s.emit (.bytes [b]))

end Sys2Proof.Machine
end

