-- ==== Sys2Proof/Machine/Unstuffer.lean ====
section
/-! DEFINITION. The two unstuffing classes (42_decoder.md R114). No session field is read or written. -/

namespace Sys2Proof.Machine

/-- U_ESCAPE consumes the next byte `x` and emits `x XOR 0x20`; with no next byte UNSTUFF fails (42_decoder.md R113, R114; log 8). -/
def execUEscape (x : Option Byte) (s : State) : Host.Outcome State Fault Refusal :=
  match x with
  | some x => .next (s.emit (.bytes [x ^^^ ESC_MASK]))
  | none => .next (s.emit .fail)

/-- U_LITERAL emits the byte itself (42_decoder.md R114; log 8). -/
def execULiteral (b : Byte) (s : State) : Host.Outcome State Fault Refusal :=
  .next (s.emit (.bytes [b]))

end Sys2Proof.Machine
end

