-- ==== Sys2Proof/Machine/Dispatch.lean ====
section
/-! DEFINITION. One arm per instruction. -/

namespace Sys2Proof.Machine

def exec (i : Instr) (s : State) : Host.Outcome State Fault Refusal :=
  match i with
  | .feedByte d => Sys2Proof.Machine.execFeedByte d s
  | .available => Sys2Proof.Machine.execAvailable s
  | .take => Sys2Proof.Machine.execTake s
  | .encode idx P => Sys2Proof.Machine.execEncode idx P s
  | .reservedOpc opc => Sys2Proof.Machine.execReservedOpc opc s
  | .reset => Sys2Proof.Machine.execReset s
  | .dStart => Sys2Proof.Machine.execDStart s
  | .dFinish => Sys2Proof.Machine.execDFinish s
  | .dData d => Sys2Proof.Machine.execDData d s
  | .sReserved b => Sys2Proof.Machine.execSReserved b s
  | .sLiteral b => Sys2Proof.Machine.execSLiteral b s
  | .uEscape x => Sys2Proof.Machine.execUEscape x s
  | .uLiteral b => Sys2Proof.Machine.execULiteral b s

end Sys2Proof.Machine
end

