-- ==== Sys2Proof/Machine/Step.lean ====
section
/-! DEFINITION. One step: the oldest arrival, whole and atomic (20_memory.md R46, R47). -/

namespace Sys2Proof.Machine

/-- One atomic transition. With nothing pending nothing happens (log 2); overlapping operations have no meaning (20_memory.md R48);
`rst = 0` resets nothing (log 12). -/
def step (s : State) : Host.Outcome State Fault Refusal :=
  match fetch s with
  | .idle => .next s
  | .overlapping => .refused .overlap
  | .unread e => .refused (.undecodable e)
  | .quiet s' => .next s'
  | .instr i s' => exec i s'

/-- The instruction of a table number placed where step takes its next command (log 10, log 14). -/
def State.withFetchWord (s : State) (nbits w : Nat) : State := s.issueTableWord nbits w

/-- `n` steps, stopping at the first refusal. -/
def run : Nat → State → Host.Outcome State Fault Refusal
  | 0, s => .next s
  | n + 1, s =>
    match step s with
    | .next s' => run n s'
    | .fault f => .fault f
    | .refused r => .refused r

end Sys2Proof.Machine
end

