-- ==== Sys2Proof/Machine/Instances.lean ====
section
/-! DEFINITION. Several instances side by side, each with its own copy of every field (10_state.md R33; 20_memory.md R51;
60_exceptions.md R152). -/

namespace Sys2Proof.Machine

/-- One step of instance `k` of a list of instances; the others are not touched. A `k` past the end names no instance and nothing
happens (log 18). -/
def stepInstance (k : Nat) (bank : List State) : Host.Outcome (List State) Fault Refusal :=
  match bank[k]? with
  | none => .next bank
  | some s =>
    match step s with
    | .next s' => .next (bank.set k s')
    | .fault f => .fault f
    | .refused r => .refused r

end Sys2Proof.Machine
end

