-- ==== Sys2Proof/Safety.lean ====
section
/-! DEFINITION. The invariants of 10_state.md and what a claim calls a good state. -/

namespace Sys2Proof.Machine

/-- `INV_FRAME`: in a frame, the buffer is non-empty and begins with START (10_state.md R25). -/
abbrev State.InvFrame (s : State) : Prop := s.processing = true → s.buffer.head? = some START

/-- `INV_PACKET`: a packet is held exactly when `available` is true, and it is not empty (10_state.md R26). -/
abbrev State.InvPacket (s : State) : Prop :=
  s.available = s.lastPacket.isSome ∧ s.lastPacket ≠ some []

/-- `INV_BUFFER`: within BUF_CAP; no START and no FINISH after position 0; empty in IDLE (10_state.md R27). -/
abbrev State.InvBuffer (s : State) : Prop :=
  s.params.bufCap.admits s.buffer.length = true
    ∧ (∀ b ∈ s.buffer.tail, b ≠ START ∧ b ≠ FINISH)
    ∧ (s.processing = false → s.buffer = [])

/-- Only the host has anything pending: nothing is put straight at a unit's input (30_encoding.md R70; log 22). -/
abbrev State.HostOnly (s : State) : Prop := ∀ a ∈ s.pending, a.fromHost = true

/-- The three invariants of 10_state.md R25 to R27, and BUF_CAP at least 1 (00_scope.md R9). -/
abbrev State.Inv (s : State) : Prop :=
  s.params.wf = true ∧ s.InvFrame ∧ s.InvPacket ∧ s.InvBuffer

end Sys2Proof.Machine
end

