-- ==== Sys2Proof/Certificates/Slice0/Obligations.lean ====
section
/-! DEFINITION. The statements for the provers. Each docstring names the rule of spec/ it formalises; a rule that the spec itself marks
as derived, or as its own decision D<n> of 92_eei_decisions.md, is named as such (log 19), and a clause that rests on the model's own
choice names the log entry. In every statement a word is the model's (log 1), what the host has issued is read in `pending` (log 2), with
what is put at a unit's input beside it (log 22), what an operation returns in `result` (log 3), what a stuffing or unstuffing row emits
in `emitted` (log 8), and D_START, D_FINISH and D_DATA are instructions of their own by log 9. -/

open Sys2Proof Sys2Proof.Machine

/-! ### Words and their decoding -/

/-- Decode and encode agree, through the opcode table: an encoded well-formed instruction decodes to itself and its word matches exactly
the rows of its mnemonic; and every word that decodes gives a well-formed instruction of the one mnemonic whose row the word matches
(30_encoding.md sections 2 to 4, the codes being the spec's decision D2). The words, and the packing of operands in them, are the model's
choice (log 1, log 8). -/
def Obligations.DecodeAndEncodeAgreeWithTheTable : Prop :=
  (∀ i : Instr, i.wellFormed = true → decode (encode i) = .ok i ∧ (encode i).rowMnemonics = [i.mnemonic])
    ∧ (∀ (w : CommandWord) (i : Instr), decode w = .ok i → i.wellFormed = true ∧ w.rowMnemonics = [i.mnemonic])

/-- 30_encoding.md R75 (the spec's own derivation): every byte value matches exactly one row of WIRE8, of STUFF8 and of UNSTUFF8, and
every 3-bit code exactly one row of HOSTOP. -/
def Obligations.EveryFieldValueMatchesExactlyOneRow : Prop :=
  (∀ (b : Byte) (x : Option Byte), (CommandWord.wire8 b).rowMnemonics.length = 1 ∧ (CommandWord.stuff8 b).rowMnemonics.length = 1
      ∧ (CommandWord.unstuff8 b x).rowMnemonics.length = 1)
    ∧ (∀ (opc : BitVec 3) (ops : List Byte), (CommandWord.hostop opc ops).rowMnemonics.length = 1)

/-- One word per mnemonic decodes to the instruction it stands for. The codes and classes are those of 30_encoding.md R66, R67 and R71
(R71's codes are the spec's decision D2); the packing is the model's choice and not those rules': the Index first and the payload after it
in one operand list (log 1), and the UNSTUFF8 word carrying the byte after it (log 8). -/
def Obligations.SpecWordsDecodeToTheirInstructions : Prop :=
  decode (.hostop 0b000#3 [0x7D#8]) = .ok (.feedByte 0x7D#8)
    ∧ decode (.hostop 0b001#3 []) = .ok .available
    ∧ decode (.hostop 0b010#3 []) = .ok .take
    ∧ decode (.hostop 0b011#3 [0x00#8, 0x41#8, 0x7E#8, 0x10#8]) = .ok (.encode 0x00#8 [0x41#8, 0x7E#8, 0x10#8])
    ∧ decode (.hostop 0b110#3 []) = .ok (.reservedOpc 0b110#3)
    ∧ decode (.ctrl 1#1) = .ok .reset
    ∧ decode (.wire8 0x7D#8) = .ok .dStart ∧ decode (.wire8 0x7E#8) = .ok .dFinish
    ∧ decode (.wire8 0x7F#8) = .ok (.dData 0x7F#8)
    ∧ decode (.stuff8 0x7F#8) = .ok (.sReserved 0x7F#8) ∧ decode (.stuff8 0x80#8) = .ok (.sLiteral 0x80#8)
    ∧ decode (.unstuff8 0x7F#8 (some 0x5E#8)) = .ok (.uEscape (some 0x5E#8))
    ∧ decode (.unstuff8 0x7E#8 none) = .ok (.uLiteral 0x7E#8)

/-- The model's reading (log 9, DEDUCED from 30_encoding.md R66, which only says that FEED_BYTE sorts its byte into the three classes): a
WIRE8 word is an instruction, and it runs as FEED_BYTE of its byte, whichever class the byte is in. -/
def Obligations.WireByteRunsAsFeedByte : Prop :=
  ∀ (d : Byte) (s : State) (i : Instr), decode (.wire8 d) = .ok i → exec i s = exec (.feedByte d) s

/-! ### CRC8 -/

/-- 40_checksum.md R81: the accumulator starts at 0, each byte in order is one CRC_STEP, and CRC_STEP is eight shifts of the XOR. -/
def Obligations.CrcFoldsEightShiftsPerByte : Prop :=
  crc8 [] = 0x00#8
    ∧ (∀ (s : List Byte) (b : Byte), crc8 (s ++ [b]) = crcStep (crc8 s) b)
    ∧ (∀ acc b : Byte, crcStep acc b =
        (fun a : Byte => if a &&& 0x80#8 ≠ 0#8 then (a <<< 1) ^^^ 0x85#8 else a <<< 1)^[8] (acc ^^^ b))

/-- The polynomial over GF(2) whose coefficient of `x^k` is bit `k` of the byte. -/
noncomputable def Sys2Proof.bytePoly (b : Byte) : Polynomial (ZMod 2) :=
  ∑ k ∈ Finset.range 8, if b.getLsbD k then Polynomial.X ^ k else 0

/-- The polynomial of a byte sequence read as one bit string, most significant bit of the first byte first. -/
noncomputable def Sys2Proof.messagePoly (s : List Byte) : Polynomial (ZMod 2) :=
  s.foldl (fun p b => p * Polynomial.X ^ 8 + bytePoly b) 0

/-- 40_checksum.md R83: CRC8 is the conventional CRC of generator `x^8 + x^7 + x^2 + 1`, MSB-first, initial value 0, no final XOR,
width 8: the message times `x^8` and the CRC have the same remainder by the generator (and the CRC has degree below 8). -/
def Obligations.CrcIsTheRemainderByTheGenerator : Prop :=
  ∀ s : List Byte,
    (Polynomial.X ^ 8 + Polynomial.X ^ 7 + Polynomial.X ^ 2 + 1 : Polynomial (ZMod 2)) ∣
      messagePoly s * Polynomial.X ^ 8 - bytePoly (crc8 s)

/-- 40_checksum.md R85 part c (the spec's own derivation): linearity over bytewise XOR of sequences of equal length. -/
def Obligations.CrcIsLinear : Prop :=
  ∀ s t : List Byte, s.length = t.length → crc8 (List.zipWith (· ^^^ ·) s t) = crc8 s ^^^ crc8 t

/-- 40_checksum.md R84, R85 parts a, b, d (the spec's own derivations): the incremental form, leading zeros, and dependence on
`acc XOR b` only. -/
def Obligations.CrcIncrementalAndZeroLaws : Prop :=
  (∀ s t : List Byte, crc8 (s ++ t) = t.foldl crcStep (crc8 s))
    ∧ (∀ s : List Byte, crc8 (0x00#8 :: s) = crc8 s)
    ∧ (∀ acc b : Byte, crcStep acc b = crc8 [acc ^^^ b])

/-- 40_checksum.md R86, for every length (the spec rests that on general knowledge, 93 G1): flipping one bit of a sequence changes its
CRC8. -/
def Obligations.SingleBitFlipChangesTheCrc : Prop :=
  ∀ (s : List Byte) (k j : Nat) (b : Byte), s[k]? = some b → j < 8 → crc8 (s.set k (b ^^^ (1#8 <<< j))) ≠ crc8 s

/-! ### Stuffing and unstuffing -/

/-- 41_encoder.md R90: a byte from 0x7D to 0x7F becomes its escape pair, every other byte stays. -/
def Obligations.StuffOneEscapesReservedBytes : Prop :=
  ∀ b : Byte, ((0x7D ≤ b.toNat ∧ b.toNat ≤ 0x7F) → stuff1 b = [0x7F#8, b ^^^ 0x20#8])
    ∧ (¬ (0x7D ≤ b.toNat ∧ b.toNat ≤ 0x7F) → stuff1 b = [b])

/-- 41_encoder.md R91: STUFF escapes each byte individually; its length is between `len(s)` and `2·len(s)`; it holds no START and no
FINISH, and every ESCAPE in it is the first byte of an escape pair. -/
def Obligations.StuffedSequenceShape : Prop :=
  stuff [] = [] ∧ ∀ s : List Byte,
    stuff s = s.flatMap stuff1
    ∧ s.length ≤ (stuff s).length ∧ (stuff s).length ≤ 2 * s.length
    ∧ START ∉ stuff s ∧ FINISH ∉ stuff s
    ∧ ∀ k : Nat, (stuff s)[k]? = some ESCAPE → ∃ x ∈ [0x5D#8, 0x5E#8, 0x5F#8], (stuff s)[k + 1]? = some x

/-- 42_decoder.md R114: UNSTUFF reads left to right, an ESCAPE always takes the byte after it whatever that byte is (also another ESCAPE;
that no byte is excluded is the spec's decision D14), an ESCAPE with no byte after it fails, and every other byte stands for itself. -/
def Obligations.UnstuffReadsEscapePairs : Prop :=
  unstuff [] = some []
    ∧ unstuff [ESCAPE] = none
    ∧ (∀ (x : Byte) (t : List Byte), unstuff (ESCAPE :: x :: t) = (unstuff t).map ((x ^^^ 0x20#8) :: ·))
    ∧ (∀ (b : Byte) (t : List Byte), b ≠ ESCAPE → unstuff (b :: t) = (unstuff t).map (b :: ·))
    ∧ unstuff [ESCAPE, ESCAPE] = some [0x5F#8]

/-- 42_decoder.md R114, its last corner case (the spec's own derivation): UNSTUFF undoes STUFF. -/
def Obligations.UnstuffUndoesStuff : Prop := ∀ s : List Byte, unstuff (stuff s) = some s

/-- The stuffing rows emit STUFF1 of their byte (41_encoder.md R90, 30_encoding.md R67) and change nothing else. That a row is an
instruction with an emission is the model's choice (log 8). -/
def Obligations.StuffRowsEmitStuffOne : Prop :=
  ∀ (b : Byte) (s : State),
    (b = 0x7D#8 ∨ b = 0x7E#8 ∨ b = 0x7F#8 →
      exec (.sReserved b) s = .next { s with emitted := .bytes [0x7F#8, b ^^^ 0x20#8] } ∧ stuff1 b = [0x7F#8, b ^^^ 0x20#8])
    ∧ (b ≠ 0x7D#8 ∧ b ≠ 0x7E#8 ∧ b ≠ 0x7F#8 →
      exec (.sLiteral b) s = .next { s with emitted := .bytes [b] } ∧ stuff1 b = [b])

/-- The unstuffing rows emit what UNSTUFF emits for their byte (42_decoder.md R114, 30_encoding.md R67) and change nothing else. That a
row is an instruction with an emission is the model's choice (log 8). -/
def Obligations.UnstuffRowsEmitTheirByte : Prop :=
  ∀ (b x : Byte) (s : State),
    exec (.uEscape (some x)) s = .next { s with emitted := .bytes [x ^^^ 0x20#8] }
    ∧ exec (.uEscape none) s = .next { s with emitted := .fail }
    ∧ (b ≠ 0x7F#8 → exec (.uLiteral b) s = .next { s with emitted := .bytes [b] })

/-! ### ENCODE and the frame -/

/-- 41_encoder.md R92, R95: ENCODE returns START, the stuffed Index, the stuffed payload, the stuffed CRC of all of that, FINISH, and
writes no other field. The limit PAYLOAD_MAX, and the refusal by name of a payload longer than it, are R93, the spec's decision D5. -/
def Obligations.EncodeReturnsTheFrame : Prop :=
  ∀ (s : State) (i : Byte) (P : List Byte),
    ((s.params.payloadMax = .unbounded ∨ ∃ n, s.params.payloadMax = .finite n ∧ P.length ≤ n) →
      exec (.encode i P) s = .next { s with
        result := .frame ([START] ++ stuff1 i ++ stuff P ++ stuff1 (crc8 ([START] ++ stuff1 i ++ stuff P)) ++ [FINISH]) })
    ∧ ((∃ n, s.params.payloadMax = .finite n ∧ n < P.length) → exec (.encode i P) s = .refused .payloadTooLong)

/-- 41_encoder.md R96 (the spec's own derivation): the frame has `n + 4` bytes and one more for every reserved byte among the Index, the
payload and the CRC, so between `n + 4` and `2n + 6`. -/
def Obligations.FrameLengthCountsReservedBytes : Prop :=
  ∀ (P : List Byte) (i : Byte),
    (frameOf P i).length = P.length + 4 + (i :: crc8 (frameBody P i) :: P).countP (fun b => reserved b)
    ∧ P.length + 4 ≤ (frameOf P i).length ∧ (frameOf P i).length ≤ 2 * P.length + 6

/-- 41_encoder.md R97 (the spec's own derivation): START at position 0 only, FINISH at the last position only, every ESCAPE followed by
0x5D, 0x5E or 0x5F, and the byte before an unescaped CRC is not ESCAPE. -/
def Obligations.FrameShape : Prop :=
  ∀ (P : List Byte) (i : Byte) (k : Nat),
    ((frameOf P i)[k]? = some START ↔ k = 0)
    ∧ ((frameOf P i)[k]? = some FINISH ↔ k + 1 = (frameOf P i).length)
    ∧ ((frameOf P i)[k]? = some ESCAPE → ∃ x ∈ [0x5D#8, 0x5E#8, 0x5F#8], (frameOf P i)[k + 1]? = some x)
    ∧ (reserved (crc8 (frameBody P i)) = false →
        (frameOf P i)[(frameOf P i).length - 2]? = some (crc8 (frameBody P i))
        ∧ (frameOf P i)[(frameOf P i).length - 3]? ≠ some ESCAPE)
    ∧ (reserved (crc8 (frameBody P i)) = true →
        (frameOf P i)[(frameOf P i).length - 2]? = some (crc8 (frameBody P i) ^^^ 0x20#8)
        ∧ (frameOf P i)[(frameOf P i).length - 3]? = some ESCAPE)

/-- 41_encoder.md R98 (the spec's own derivation): the empty payload's frame, and the three Index values whose CRC is reserved. -/
def Obligations.EmptyPayloadFrames : Prop :=
  ∀ i : Byte,
    frameOf [] i = [START] ++ stuff1 i ++ stuff1 (crc8 ([START] ++ stuff1 i)) ++ [FINISH]
    ∧ (reserved (crc8 ([START] ++ stuff1 i)) = true ↔ i = 0x1D#8 ∨ i = 0x5C#8 ∨ i = 0xA1#8)

/-! ### FEED_BYTE, one byte at a time -/

/-- 42_decoder.md R101, R104: FEED_BYTE of START opens a frame in IDLE and restarts the open one IN_FRAME; nothing else changes, and
nothing is returned. That D_START (30_encoding.md R66) does the same is the model's reading (log 9, DEDUCED). -/
def Obligations.StartByteOpensOrRestartsAFrame : Prop :=
  ∀ s : State,
    (s.processing = false →
      exec (.feedByte START) s = .next { s with processing := true, buffer := [0x7D#8], result := .nothing }
      ∧ exec .dStart s = .next { s with processing := true, buffer := [0x7D#8], result := .nothing })
    ∧ (s.processing = true →
      exec (.feedByte START) s = .next { s with buffer := [0x7D#8], result := .nothing }
      ∧ exec .dStart s = .next { s with buffer := [0x7D#8], result := .nothing })

/-- 42_decoder.md R102: in IDLE, FEED_BYTE discards every byte but START, FINISH and ESCAPE included. That D_FINISH and D_DATA
(30_encoding.md R66) do the same is the model's reading (log 9, DEDUCED). -/
def Obligations.IdleDiscardsEveryByteButStart : Prop :=
  ∀ (s : State) (d : Byte), s.processing = false → d ≠ START →
    exec (.feedByte d) s = .next { s with result := .nothing }
    ∧ exec .dFinish s = .next { s with result := .nothing }
    ∧ (d ≠ FINISH → exec (.dData d) s = .next { s with result := .nothing })

/-- 42_decoder.md R105: FEED_BYTE appends a data byte when there is room left, ESCAPE included; nothing else changes. The bound BUF_CAP is
the spec's decision D3; that D_DATA (30_encoding.md R66) does the same is the model's reading (log 9, DEDUCED). -/
def Obligations.DataByteIsAppendedWhenThereIsRoom : Prop :=
  ∀ (s : State) (d : Byte), s.processing = true → d ≠ START → d ≠ FINISH →
    (s.params.bufCap = .unbounded ∨ ∃ n, s.params.bufCap = .finite n ∧ s.buffer.length < n) →
    exec (.feedByte d) s = .next { s with buffer := s.buffer ++ [d], result := .nothing }
    ∧ exec (.dData d) s = .next { s with buffer := s.buffer ++ [d], result := .nothing }

/-- 42_decoder.md R106 (the spec's decisions D3, D4): FEED_BYTE of a data byte into a full buffer abandons the frame; the packet slot
stays. That D_DATA (30_encoding.md R66) does the same is the model's reading (log 9, DEDUCED). -/
def Obligations.FullBufferAbandonsTheFrame : Prop :=
  ∀ (s : State) (d : Byte) (n : Nat), s.processing = true → d ≠ START → d ≠ FINISH →
    s.params.bufCap = .finite n → s.buffer.length = n →
    exec (.feedByte d) s = .next { s with processing := false, buffer := [], result := .nothing }
    ∧ exec (.dData d) s = .next { s with processing := false, buffer := [], result := .nothing }

/-- 42_decoder.md R103, R107: FEED_BYTE of FINISH IN_FRAME completes in IDLE with an empty buffer whatever the outcome of the closure,
also with a full buffer (the empty buffer in IDLE is the spec's decision D15). The packet slot either stays (R111, R113, R115; decisions
D11 to D13) or holds a new non-empty packet, over any held one (R116; decision D10). That D_FINISH (30_encoding.md R66) does the same is
the model's reading (log 9, DEDUCED), and so is that parameters, pending commands and emission, the model's own fields (log 2, log 4, log
8), stay. -/
def Obligations.FinishByteAlwaysEndsInIdle : Prop :=
  ∀ s : State, s.processing = true →
    ∃ t : State, exec (.feedByte FINISH) s = .next t ∧ exec .dFinish s = .next t
      ∧ t.processing = false ∧ t.buffer = []
      ∧ t.params = s.params ∧ t.pending = s.pending ∧ t.emitted = s.emitted ∧ t.result = .nothing
      ∧ ((t.lastPacket = s.lastPacket ∧ t.available = s.available)
        ∨ ∃ p : List Byte, p ≠ [] ∧ t.lastPacket = some p ∧ t.available = true)

/-- 42_decoder.md R108: the received CRC is the last byte, or, when the byte before it is ESCAPE, the last byte XOR 0x20; the body is the
buffer without that field; in a buffer that begins with START the escaped case needs three bytes and leaves a body that begins with
START. -/
def Obligations.CrcFieldIsTakenFromTheEnd : Prop :=
  ∀ (body : List Byte) (c : Byte),
    crcExtract (body ++ [ESCAPE, c]) = some (c ^^^ 0x20#8, body)
    ∧ (body.getLast? ≠ some ESCAPE → crcExtract (body ++ [c]) = some (c, body))
    ∧ ((body ++ [ESCAPE, c]).head? = some START → 3 ≤ (body ++ [ESCAPE, c]).length ∧ body.head? = some START)

/-- 42_decoder.md R109, R111 (the spec's decisions D11, D16; the label D26): FINISH directly after START drops the frame; the packet slot
stays. -/
def Obligations.FinishAfterStartIsDropped : Prop :=
  ∀ s : State, s.processing = true → s.buffer = [START] →
    s.feedLabel FINISH = .dropCrc
    ∧ exec (.feedByte FINISH) s = .next { s with processing := false, buffer := [], result := .nothing }

/-- 42_decoder.md R110 to R116 (the spec's decisions D10 to D13 for what a drop and an accept do to the slot): with the buffer ending in
the CRC field of `c`, escaped or not, the frame is dropped when the CRC of the body is not `c`, when the body does not unstuff, and when
nothing follows START; else the packet is stored, over any held one. -/
def Obligations.ClosureStoresExactlyTheGoodPackets : Prop :=
  ∀ (s : State) (body : List Byte) (c : Byte), s.processing = true →
    (s.buffer = body ++ [ESCAPE, c ^^^ 0x20#8] ∨ (s.buffer = body ++ [c] ∧ body.getLast? ≠ some ESCAPE)) →
    (crc8 body ≠ c → exec (.feedByte FINISH) s = .next { s with processing := false, buffer := [], result := .nothing })
    ∧ (crc8 body = c → unstuff body = none →
        exec (.feedByte FINISH) s = .next { s with processing := false, buffer := [], result := .nothing })
    ∧ (∀ u : Byte, crc8 body = c → unstuff body = some [u] →
        exec (.feedByte FINISH) s = .next { s with processing := false, buffer := [], result := .nothing })
    ∧ (∀ (u i : Byte) (P : List Byte), crc8 body = c → unstuff body = some (u :: i :: P) →
        exec (.feedByte FINISH) s = .next { s with
          processing := false, buffer := [], lastPacket := some (i :: P), available := true, result := .nothing })

/-- 42_decoder.md R120, 60_exceptions.md R146 (the spec's decisions D26, D29; the state changes rest on D3, D4, D10 to D13, D15 and D16
where R101 to R116 do): the label of a FEED_BYTE step says the state and byte it is for and the change it makes. For IN_FRAME with an
empty buffer, a state that INV_FRAME (10_state.md R25) rules out, the `dropCrc` arm is the model's choice (log 7, DESIGN CHOICE) and no
rule's. -/
def Obligations.LabelNamesTheStateChange : Prop :=
  ∀ (s : State) (d : Byte),
    match s.feedLabel d with
    | .openFrame => s.processing = false ∧ d = START ∧ s.feedByte d = { s with processing := true, buffer := [START] }
    | .ignore => s.processing = false ∧ d ≠ START ∧ s.feedByte d = s
    | .restart => s.processing = true ∧ d = START ∧ s.feedByte d = { s with buffer := [START] }
    | .append => s.processing = true ∧ d ≠ START ∧ d ≠ FINISH ∧ s.params.bufCap.admits (s.buffer.length + 1) = true
        ∧ s.feedByte d = { s with buffer := s.buffer ++ [d] }
    | .overflow => s.processing = true ∧ d ≠ START ∧ d ≠ FINISH ∧ s.params.bufCap.admits (s.buffer.length + 1) = false
        ∧ s.feedByte d = { s with processing := false, buffer := [] }
    | .dropCrc => s.processing = true ∧ d = FINISH ∧ s.feedByte d = { s with processing := false, buffer := [] }
        ∧ ∀ c body, crcExtract s.buffer = some (c, body) → crc8 body ≠ c
    | .dropEsc => s.processing = true ∧ d = FINISH ∧ s.feedByte d = { s with processing := false, buffer := [] }
        ∧ ∃ c body, crcExtract s.buffer = some (c, body) ∧ crc8 body = c ∧ unstuff body = none
    | .dropEmpty => s.processing = true ∧ d = FINISH ∧ s.feedByte d = { s with processing := false, buffer := [] }
        ∧ ∃ c body u, crcExtract s.buffer = some (c, body) ∧ crc8 body = c ∧ unstuff body = some u ∧ u.drop 1 = []
    | .accept => s.processing = true ∧ d = FINISH
        ∧ ∃ c body u, crcExtract s.buffer = some (c, body) ∧ crc8 body = c ∧ unstuff body = some u ∧ u.drop 1 ≠ []
          ∧ s.feedByte d = { s with processing := false, buffer := [], lastPacket := some (u.drop 1), available := true }

/-! ### AVAILABLE, TAKE, RESET, reserved codes -/

/-- 43_decoder_access.md R131: AVAILABLE returns 1 when a packet is held, else 0, and writes no state. -/
def Obligations.AvailableReturnsItsBit : Prop :=
  ∀ s : State,
    (s.available = true → exec .available s = .next { s with result := .bit 1#1 })
    ∧ (s.available = false → exec .available s = .next { s with result := .bit 0#1 })

/-- 43_decoder_access.md R132: TAKE with a packet held returns OK and the packet, clears `available`, and leaves the open frame alone;
that it clears `lastPacket` too is R133, the spec's decision D9. A second TAKE, and any with none held, returns NOT_READY, no bytes, and
writes no state: R134, the spec's decision D8. -/
def Obligations.TakeReturnsThePacketOnce : Prop :=
  ∀ s : State,
    (∀ p : List Byte, s.available = true → s.lastPacket = some p →
      ∃ t : State, exec .take s = .next t
        ∧ t = { s with available := false, lastPacket := none, result := .taken .ok p }
        ∧ exec .take t = .next { t with result := .taken .notReady [] })
    ∧ (s.available = false → exec .take s = .next { s with result := .taken .notReady [] })

/-- 43_decoder_access.md R134, 60_exceptions.md R141 (the spec's decision D8): TAKE with no packet held completes with status
NOT_READY = 1 and no bytes, and changes no state; OK = 0. -/
def Obligations.TakeWithoutPacketIsNotReady : Prop :=
  Status.code .ok = 0 ∧ Status.code .notReady = 1
    ∧ ∀ s : State, s.available = false → exec .take s = .next { s with result := .taken .notReady [] }

/-- 70_reset_and_hazards.md R160 (the spec's decisions D6, D7): RESET sets the four session fields to their reset values and returns
nothing. That parameters, pending commands and emission stay is the model's (log 16). -/
def Obligations.ResetClearsTheSession : Prop :=
  ∀ s : State, exec .reset s = .next { s with
    processing := false, buffer := [], lastPacket := none, available := false, result := .nothing }

/-- 10_state.md R32, 70_reset_and_hazards.md R161 (the spec's decision D6): the initial state of an instance. The two parameters at
their reference value are the model's choice (log 4). -/
def Obligations.ResetStateValues : Prop :=
  State.reset.processing = false ∧ State.reset.buffer = [] ∧ State.reset.lastPacket = none ∧ State.reset.available = false
    ∧ State.reset.params = ⟨.unbounded, .unbounded⟩

/-- 30_encoding.md R72 (the spec's decision D2), 60_exceptions.md R147: the codes 100 to 111 are refused by name, before any operand
byte is looked at. -/
def Obligations.ReservedCodesAreRefused : Prop :=
  ∀ (s : State) (opc : BitVec 3) (ops : List Byte) (rest : List Arrival), 4 ≤ opc.toNat →
    exec (.reservedOpc opc) s = .refused .reservedOpcode
    ∧ (s.pending = .op (.hostop opc ops) :: rest → step s = .refused .reservedOpcode)

/-! ### Whole-machine rules -/

/-- The "written by" columns of 10_state.md R32 (rules R21 to R24) and 70_reset_and_hazards.md R163 (the spec's decisions D3, D5):
`processing` and `buffer` are written by FEED_BYTE and RESET only, the packet slot by those and TAKE only, the parameters by nothing. That
D_START, D_FINISH and D_DATA count as FEED_BYTE is the model's reading (log 9, DEDUCED); that no instruction, RESET included, touches what
is pending is the model's choice (log 2, log 16, DESIGN CHOICE), and so is that the stuffing and unstuffing rows write no session field
(log 8). -/
def Obligations.FieldsHaveTheirWritersOnly : Prop :=
  ∀ (i : Instr) (s t : State), exec i s = .next t →
    t.params = s.params ∧ t.pending = s.pending
    ∧ ((∀ d, i ≠ .feedByte d) → i ≠ .dStart → i ≠ .dFinish → (∀ d, i ≠ .dData d) → i ≠ .reset →
        t.processing = s.processing ∧ t.buffer = s.buffer
        ∧ (i ≠ .take → t.lastPacket = s.lastPacket ∧ t.available = s.available))

/-- 00_scope.md R14, 30_encoding.md R69, 60_exceptions.md R147, R150: no instruction faults (log 13); the only ones refused are the
reserved codes (R72, the spec's decision D2) and an ENCODE whose payload is longer than PAYLOAD_MAX (R93, the spec's decision D5); every
other one completes in every state, the rows that are instructions by log 8 and log 9 among them. -/
def Obligations.OnlyReservedCodesAndLongPayloadsAreRefused : Prop :=
  ∀ (i : Instr) (s : State),
    (∃ t, exec i s = .next t)
    ∨ (∃ opc, i = .reservedOpc opc ∧ exec i s = .refused .reservedOpcode)
    ∨ (∃ idx P, i = .encode idx P ∧ s.params.payloadMax.admits P.length = false ∧ exec i s = .refused .payloadTooLong)

/-- 10_state.md R30 (the spec's own derivation): what AVAILABLE, TAKE and ENCODE return does not depend on `processing` or `buffer`. -/
def Obligations.ResultsDoNotShowTheOpenFrame : Prop :=
  ∀ (s : State) (proc : Bool) (buf : List Byte) (i : Instr) (t : State),
    (i = .available ∨ i = .take ∨ ∃ idx P, i = .encode idx P) → exec i s = .next t →
    ∃ t', exec i { s with processing := proc, buffer := buf } = .next t' ∧ t'.result = t.result

/-! ### The step -/

/-- 20_memory.md R46, R47: a step is one operation, whole and atomic, and the oldest one issued comes first. The list of what is pending
is the model's choice (log 2, DESIGN CHOICE), and so are the words (log 1): when the host's oldest pending word decodes, step is that
instruction's exec on the state with the word taken off. So it is with what stands at a unit's input (log 22), which always decodes. -/
def Obligations.StepRunsTheDecodedInstruction : Prop :=
  ∀ (s : State) (rest : List Arrival),
    (∀ (w : HostWord) (i : Instr), s.pending = .op w :: rest → decode w.word = .ok i → step s = exec i { s with pending := rest })
    ∧ (∀ u : UnitWord, s.pending = .atUnit u :: rest →
        ∃ i : Instr, decode u.word = .ok i ∧ step s = exec i { s with pending := rest })

/-- 30_encoding.md R70 (the spec's decisions D2, D22): the host has exactly the four operations and RESET, over the model's list of what
is pending (log 2). A word the host can issue decodes to one of those five or to a reserved code, which is refused (R72); each of the
five is the decoding of a host word; a byte at a unit's input (log 22) decodes to none of them; and where only the host has anything
pending, a completing step changes nothing, or takes off a low reset input (log 12), or runs one of the five; no unit's emission changes
and nothing comes to stand at a unit's input. -/
def Obligations.HostHasExactlyFourOperationsAndReset : Prop :=
  (∀ i : Instr, i.isHostOperation = true ↔
      (∃ idx P, i = .encode idx P) ∨ (∃ d, i = .feedByte d) ∨ i = .available ∨ i = .take ∨ i = .reset)
    ∧ (∀ (w : HostWord) (i : Instr), decode w.word = .ok i → i.isHostOperation = true ∨ ∃ opc, i = .reservedOpc opc)
    ∧ (∀ i : Instr, i.isHostOperation = true → ∃ w : HostWord, decode w.word = .ok i)
    ∧ (∀ (u : UnitWord) (i : Instr), decode u.word = .ok i → i.isHostOperation = false)
    ∧ (∀ s t : State, s.HostOnly → step s = .next t →
        t.HostOnly ∧ t.emitted = s.emitted
        ∧ ((s.pending = [] ∧ t = s) ∨ (∃ rest, s.pending = .op (.ctrl 0#1) :: rest ∧ t = { s with pending := rest })
          ∨ ∃ w rest i, s.pending = .op w :: rest ∧ decode w.word = .ok i ∧ i.isHostOperation = true
              ∧ exec i { s with pending := rest } = .next t))

/-- What a step does when there is no instruction to run. 20_memory.md R48 (the spec's decision D20): overlapping operations get no step.
The model's choices: with nothing pending nothing happens (log 2), `rst = 0` resets nothing (log 12), and every other word that is no
instruction is refused with the decoder's reason (log 11): FEED_BYTE without exactly one byte, AVAILABLE or TAKE with any, ENCODE without
an Index. -/
def Obligations.StepWithoutAnInstruction : Prop :=
  ∀ (s : State) (rest : List Arrival),
    (s.pending = [] → step s = .next s)
    ∧ (∀ w₁ w₂, s.pending = .overlap w₁ w₂ :: rest → step s = .refused .overlap)
    ∧ (s.pending = .op (.ctrl 0#1) :: rest → step s = .next { s with pending := rest })
    ∧ (∀ (w : HostWord) (e : DecodeError), s.pending = .op w :: rest → decode w.word = .error e → e ≠ .resetNotAsserted →
        step s = .refused (.undecodable e))
    ∧ (∀ (opc : BitVec 3) (ops : List Byte), s.pending = .op (.hostop opc ops) :: rest →
        (opc = 0b000#3 ∧ ops.length ≠ 1) ∨ ((opc = 0b001#3 ∨ opc = 0b010#3) ∧ ops ≠ []) ∨ (opc = 0b011#3 ∧ ops = []) →
        step s = .refused (.undecodable (if ops = [] then .missingOperand else .unexpectedOperand)))

/-- A table number placed with `withFetchWord` is what the very next step runs (log 10, log 14). -/
def Obligations.PlacedTableWordRunsNext : Prop :=
  ∀ (s : State) (nbits w : Nat) (i : Instr), decodeTableWord nbits w = some i → step (s.withFetchWord nbits w) = exec i s

/-- The reset state (10_state.md R32, the spec's decision D6; its parameters by log 4) meets the invariants of 10_state.md R25 to R27,
with BUF_CAP at least 1 (log 20). -/
def Obligations.ResetMeetsTheInvariants : Prop := State.reset.Inv

/-- 10_state.md R25 to R27 (which rest on the spec's decisions D9, D13, D15): every step keeps INV_FRAME, INV_PACKET and INV_BUFFER (with
BUF_CAP at least 1, log 20), from every state that meets them. -/
def Obligations.StepKeepsTheInvariants : Prop :=
  ∀ s t : State, s.Inv → step s = .next t → t.Inv

/-! ### Byte sequences -/

/-- 43_decoder_access.md R130 (the spec's decision D25): FEED is its FEED_BYTE steps, first byte first, one step each. -/
def Obligations.FeedRunsOneStepPerByte : Prop :=
  ∀ (s : State) (ds : List Byte), s.pending = [] →
    run ds.length (s.load [.feed ds]) = .next { s.feed ds with result := if ds = [] then s.result else .nothing }

/-- 42_decoder.md R118 (the spec's own derivation; it rests on the decisions D10, D11): the session after a program of FEED_BYTE,
AVAILABLE and accepted ENCODE operations is that of feeding all its bytes at once, however they are split and whatever stands between
them. -/
def Obligations.FragmentationDoesNotMatter : Prop :=
  ∀ (s : State) (is : List Instr), s.pending = [] →
    (∀ i ∈ is, (∃ d, i = .feedByte d) ∨ i = .available
      ∨ ∃ idx P, i = .encode idx P ∧ s.params.payloadMax.admits P.length = true) →
    ∃ t : State, run is.length (s.issue is) = .next t ∧
      let u := s.feed (is.filterMap fun i => match i with | .feedByte d => some d | _ => none)
      t.processing = u.processing ∧ t.buffer = u.buffer ∧ t.lastPacket = u.lastPacket ∧ t.available = u.available

/-- 42_decoder.md R117 (the spec's own derivation, of the source's "Round trip"; BUF_CAP is the decision D3, the overwritten slot D10):
from every state, running FEED of an encoded frame that fits the buffer ends in IDLE with exactly the Index and payload held. -/
def Obligations.RoundTripFromAnyState : Prop :=
  ∀ (s : State) (P : List Byte) (i : Byte), s.pending = [] →
    s.params.bufCap.admits ((frameOf P i).length - 1) = true →
    run (frameOf P i).length (s.load [.feed (frameOf P i)]) = .next { s with
      processing := false, buffer := [], lastPacket := some (i :: P), available := true, result := .nothing }

/-- 43_decoder_access.md R135 (the spec's own derivation; it rests on the decisions D3, D5, D9, D10): the frame that ENCODE returns, fed
and taken, gives back Index and payload. -/
def Obligations.EncodeFeedTakeGivesBackThePacket : Prop :=
  ∀ (s : State) (P : List Byte) (i : Byte), s.pending = [] →
    s.params.payloadMax.admits P.length = true → s.params.bufCap.admits ((frameOf P i).length - 1) = true →
    ∃ f : List Byte, exec (.encode i P) s = .next { s with result := .frame f }
      ∧ run (f.length + 1) (s.load [.feed f, .take]) = .next { s with
          processing := false, buffer := [], lastPacket := none, available := false, result := .taken .ok (i :: P) }

/-- 42_decoder.md R121 (the spec's own derivation; it rests on the decisions D3, D10): whatever garbage comes first, a frame that fits is
decoded. -/
def Obligations.FrameAfterAnyGarbageIsDecoded : Prop :=
  ∀ (s : State) (G P : List Byte) (i : Byte), s.params.bufCap.admits ((frameOf P i).length - 1) = true →
    s.feed (G ++ frameOf P i) = { s with
      processing := false, buffer := [], lastPacket := some (i :: P), available := true }

/-- 42_decoder.md R106, 70_reset_and_hazards.md R168 (the spec's own derivation; it rests on the decisions D3, D4, D11): a frame that does
not fit the buffer is dropped; the packet slot stays. -/
def Obligations.FrameTooLongForTheBufferIsDropped : Prop :=
  ∀ (s : State) (P : List Byte) (i : Byte), s.params.bufCap.admits ((frameOf P i).length - 1) = false →
    s.feed (frameOf P i) = { s with processing := false, buffer := [] }

/-- 70_reset_and_hazards.md R163 (the spec's own derivation; the two parameters are its decisions D3, D5): `BUF_CAP ≥ 2·PAYLOAD_MAX + 5`
makes every frame ENCODE can produce fit. -/
def Obligations.RecommendedBufferFitsEveryFrame : Prop :=
  ∀ (p : Params) (m : Nat) (P : List Byte) (i : Byte), p.payloadMax = .finite m → p.bufCap.admits (2 * m + 5) = true →
    p.payloadMax.admits P.length = true → p.bufCap.admits ((frameOf P i).length - 1) = true

/-- 42_decoder.md R119 (the spec's own derivation; it rests on the decisions D3, D10): a frame whose CRC is 0x7F is accepted with the CRC
byte left unescaped. -/
def Obligations.UnescapedEscapeAsCrcIsAccepted : Prop :=
  ∀ (s : State) (P : List Byte) (i : Byte), crc8 (frameBody P i) = ESCAPE →
    s.params.bufCap.admits ((frameBody P i).length + 1) = true →
    s.feed (frameBody P i ++ [ESCAPE, FINISH]) = { s with
      processing := false, buffer := [], lastPacket := some (i :: P), available := true }

/-- 42_decoder.md R122 part a (the spec's own derivation; it rests on the decisions D3, D11, D26): one flipped bit inside a frame, with
neither the old nor the new byte reserved, is never accepted: the packet slot keeps its contents at every point, and when the frame fits
the closure's label is DROP_CRC. -/
def Obligations.ClassPreservingBitFlipIsNeverAccepted : Prop :=
  ∀ (s : State) (P : List Byte) (i b : Byte) (k j : Nat), s.processing = false →
    0 < k → k + 1 < (frameOf P i).length → (frameOf P i)[k]? = some b → j < 8 →
    reserved b = false → reserved (b ^^^ (1#8 <<< j)) = false →
    (∀ n : Nat, (s.feed (((frameOf P i).set k (b ^^^ (1#8 <<< j))).take n)).lastPacket = s.lastPacket
      ∧ (s.feed (((frameOf P i).set k (b ^^^ (1#8 <<< j))).take n)).available = s.available)
    ∧ (s.params.bufCap.admits ((frameOf P i).length - 1) = true →
        (s.feed ((frameOf P i).set k (b ^^^ (1#8 <<< j))).dropLast).feedLabel FINISH = .dropCrc)

/-! ### Several instances -/

/-- 20_memory.md R51, 10_state.md R33, 60_exceptions.md R152 (the spec's decision D27), over the model's list of instances (log 18): a
completing step of one instance is its own `step`; it leaves every other instance unchanged, also one whose own step would be refused;
what another instance is refused does not depend on it; and completing steps of different instances commute. -/
def Obligations.InstancesAreIndependent : Prop :=
  ∀ (k l : Nat) (bank b₁ : List State), k ≠ l → stepInstance k bank = .next b₁ →
    b₁[l]? = bank[l]?
    ∧ (∀ s : State, bank[k]? = some s → ∃ t : State, step s = .next t ∧ b₁[k]? = some t)
    ∧ (∀ r : Refusal, stepInstance l b₁ = .refused r ↔ stepInstance l bank = .refused r)
    ∧ (∀ b₂ : List State, stepInstance l b₁ = .next b₂ →
        ∃ b₃ : List State, stepInstance l bank = .next b₃ ∧ stepInstance k b₃ = .next b₂)
end

