-- ==== Sys2Proof/Laws/Checksum.lean ====
section
/-! SUPPORT. One shift and one step of the CRC: the 8-bit form, and linearity over XOR. -/

namespace Sys2Proof.Machine

/-- A shift without the 9-bit intermediate: the bit shifted out decides whether the polynomial is added. -/
theorem crcShift_eq : ∀ a : Byte, crcShift a = (a <<< 1) ^^^ (if a.getLsbD 7 then CRC_POLY else 0#8) := by decide +kernel

theorem crcShift_xor (a b : Byte) : crcShift (a ^^^ b) = crcShift a ^^^ crcShift b := by
  have both : ∀ x y z : Byte, (x ^^^ z) ^^^ (y ^^^ z) = x ^^^ y := fun x y z => by
    rw [BitVec.xor_assoc, BitVec.xor_comm y, ← BitVec.xor_assoc z]; simp
  rw [crcShift_eq, crcShift_eq a, crcShift_eq b, BitVec.shiftLeft_xor_distrib, BitVec.getLsbD_xor]
  cases a.getLsbD 7 <;> cases b.getLsbD 7 <;> simp [both] <;> ac_rfl

theorem crcShifts_xor (n : Nat) : ∀ a b : Byte, crcShifts n (a ^^^ b) = crcShifts n a ^^^ crcShifts n b := by
  induction n with
  | zero => exact fun _ _ => rfl
  | succ n ih => intro a b; simp only [crcShifts, crcShift_xor, ih]

/-- CRC_STEP is linear in accumulator and byte together. -/
theorem crcStep_xor (a b c d : Byte) : crcStep (a ^^^ b) (c ^^^ d) = crcStep a c ^^^ crcStep b d := by
  simp only [crcStep]
  rw [← crcShifts_xor]
  congr 1
  ac_rfl

/-- The step of a zero byte is zero on the zero accumulator only. -/
theorem crcStep_ne_zero : ∀ a : Byte, a ≠ 0#8 → crcStep a 0#8 ≠ 0#8 := by decide +kernel

end Sys2Proof.Machine
end

