-- ==== Sys2Proof/Laws/Classes.lean ====
section
/-! SUPPORT. The byte classes: one lemma per class of 30_encoding.md R66 and R67, and the three reserved values. -/

namespace Sys2Proof

theorem START_ne_FINISH : START ≠ FINISH := by decide
theorem START_ne_ESCAPE : START ≠ ESCAPE := by decide
theorem FINISH_ne_ESCAPE : FINISH ≠ ESCAPE := by decide

@[simp] theorem wireClass_START : wireClass START = .start := rfl
@[simp] theorem wireClass_FINISH : wireClass FINISH = .finish := rfl

theorem wireClass_data {d : Byte} (hs : d ≠ START) (hf : d ≠ FINISH) : wireClass d = .data := by
  simp [wireClass, hs, hf]

/-- The reserved bytes are exactly START, FINISH and ESCAPE (30_encoding.md R62). -/
theorem reserved_iff : ∀ b : Byte, reserved b = true ↔ b = START ∨ b = FINISH ∨ b = ESCAPE := by decide +kernel

theorem not_reserved {b : Byte} (h : reserved b = false) : b ≠ START ∧ b ≠ FINISH ∧ b ≠ ESCAPE := by
  have hb : ¬ (b = START ∨ b = FINISH ∨ b = ESCAPE) := fun hb => by
    rw [(reserved_iff b).2 hb] at h; exact absurd h (by decide)
  exact ⟨fun e => hb (.inl e), fun e => hb (.inr (.inl e)), fun e => hb (.inr (.inr e))⟩

theorem stuffClass_reserved {b : Byte} (h : reserved b = true) : stuffClass b = .reserved := by simp [stuffClass, h]
theorem stuffClass_literal {b : Byte} (h : reserved b = false) : stuffClass b = .literal := by simp [stuffClass, h]

@[simp] theorem unstuffClass_ESCAPE : unstuffClass ESCAPE = .escape := rfl
theorem unstuffClass_literal {b : Byte} (h : b ≠ ESCAPE) : unstuffClass b = .literal := by simp [unstuffClass, h]

/-- XOR with the escape mask undoes itself. -/
@[simp] theorem xor_mask_mask (b : Byte) : (b ^^^ ESC_MASK) ^^^ ESC_MASK = b := by
  rw [BitVec.xor_assoc]; simp

end Sys2Proof
end

