-- ==== Sys2Proof/Laws/Instances.lean ====
section
/-! SUPPORT. What a step of one instance of a list can be. -/

namespace Sys2Proof.Machine

/-- With no instance at `k` the list stays. -/
theorem stepInstance_absent {k : Nat} {bank : List State} (h : bank[k]? = none) : stepInstance k bank = .next bank := by
  simp [stepInstance, h]

/-- A completing step of instance `k` is its own completing step, put back in its place. -/
theorem stepInstance_cases {k : Nat} {bank b : List State} (h : stepInstance k bank = .next b) :
    (bank[k]? = none ∧ b = bank) ∨ ∃ s t, bank[k]? = some s ∧ step s = .next t ∧ b = bank.set k t := by
  unfold stepInstance at h
  cases hk : bank[k]? with
  | none => simp only [hk, Host.Outcome.next.injEq] at h; exact .inl ⟨rfl, h.symm⟩
  | some s =>
    cases hs : step s <;> simp only [hk, hs, Host.Outcome.next.injEq, reduceCtorEq] at h
    exact .inr ⟨s, _, rfl, hs, h.symm⟩

/-- Whether and how a step of instance `k` is refused depends on that instance alone. -/
theorem stepInstance_refused_iff {k : Nat} {bank : List State} {r : Refusal} :
    stepInstance k bank = .refused r ↔ ∃ s, bank[k]? = some s ∧ step s = .refused r := by
  unfold stepInstance
  cases bank[k]? with
  | none => simp
  | some s => cases hs : step s <;> simp [hs]

end Sys2Proof.Machine
end

