-- ==== Sys2Proof/Laws/State.lean ====
section
/-! SUPPORT. One lemma per field per named write of the state, each true by rfl. -/

namespace Sys2Proof.Machine

variable (s : State)

@[simp] theorem State.openFrame_processing : s.openFrame.processing = true := rfl
@[simp] theorem State.openFrame_buffer : s.openFrame.buffer = [START] := rfl
@[simp] theorem State.openFrame_lastPacket : s.openFrame.lastPacket = s.lastPacket := rfl
@[simp] theorem State.openFrame_available : s.openFrame.available = s.available := rfl
@[simp] theorem State.openFrame_params : s.openFrame.params = s.params := rfl
@[simp] theorem State.openFrame_pending : s.openFrame.pending = s.pending := rfl
@[simp] theorem State.openFrame_result : s.openFrame.result = s.result := rfl
@[simp] theorem State.openFrame_emitted : s.openFrame.emitted = s.emitted := rfl

@[simp] theorem State.restartFrame_processing : s.restartFrame.processing = s.processing := rfl
@[simp] theorem State.restartFrame_buffer : s.restartFrame.buffer = [START] := rfl
@[simp] theorem State.restartFrame_lastPacket : s.restartFrame.lastPacket = s.lastPacket := rfl
@[simp] theorem State.restartFrame_available : s.restartFrame.available = s.available := rfl
@[simp] theorem State.restartFrame_params : s.restartFrame.params = s.params := rfl
@[simp] theorem State.restartFrame_pending : s.restartFrame.pending = s.pending := rfl
@[simp] theorem State.restartFrame_result : s.restartFrame.result = s.result := rfl
@[simp] theorem State.restartFrame_emitted : s.restartFrame.emitted = s.emitted := rfl

@[simp] theorem State.bufAppend_processing (d : Byte) : (s.bufAppend d).processing = s.processing := rfl
@[simp] theorem State.bufAppend_buffer (d : Byte) : (s.bufAppend d).buffer = s.buffer ++ [d] := rfl
@[simp] theorem State.bufAppend_lastPacket (d : Byte) : (s.bufAppend d).lastPacket = s.lastPacket := rfl
@[simp] theorem State.bufAppend_available (d : Byte) : (s.bufAppend d).available = s.available := rfl
@[simp] theorem State.bufAppend_params (d : Byte) : (s.bufAppend d).params = s.params := rfl
@[simp] theorem State.bufAppend_pending (d : Byte) : (s.bufAppend d).pending = s.pending := rfl
@[simp] theorem State.bufAppend_result (d : Byte) : (s.bufAppend d).result = s.result := rfl
@[simp] theorem State.bufAppend_emitted (d : Byte) : (s.bufAppend d).emitted = s.emitted := rfl

@[simp] theorem State.toIdle_processing : s.toIdle.processing = false := rfl
@[simp] theorem State.toIdle_buffer : s.toIdle.buffer = [] := rfl
@[simp] theorem State.toIdle_lastPacket : s.toIdle.lastPacket = s.lastPacket := rfl
@[simp] theorem State.toIdle_available : s.toIdle.available = s.available := rfl
@[simp] theorem State.toIdle_params : s.toIdle.params = s.params := rfl
@[simp] theorem State.toIdle_pending : s.toIdle.pending = s.pending := rfl
@[simp] theorem State.toIdle_result : s.toIdle.result = s.result := rfl
@[simp] theorem State.toIdle_emitted : s.toIdle.emitted = s.emitted := rfl

@[simp] theorem State.hold_processing (p : List Byte) : (s.hold p).processing = s.processing := rfl
@[simp] theorem State.hold_buffer (p : List Byte) : (s.hold p).buffer = s.buffer := rfl
@[simp] theorem State.hold_lastPacket (p : List Byte) : (s.hold p).lastPacket = some p := rfl
@[simp] theorem State.hold_available (p : List Byte) : (s.hold p).available = true := rfl
@[simp] theorem State.hold_params (p : List Byte) : (s.hold p).params = s.params := rfl
@[simp] theorem State.hold_pending (p : List Byte) : (s.hold p).pending = s.pending := rfl
@[simp] theorem State.hold_result (p : List Byte) : (s.hold p).result = s.result := rfl
@[simp] theorem State.hold_emitted (p : List Byte) : (s.hold p).emitted = s.emitted := rfl

@[simp] theorem State.release_processing : s.release.processing = s.processing := rfl
@[simp] theorem State.release_buffer : s.release.buffer = s.buffer := rfl
@[simp] theorem State.release_lastPacket : s.release.lastPacket = none := rfl
@[simp] theorem State.release_available : s.release.available = false := rfl
@[simp] theorem State.release_params : s.release.params = s.params := rfl
@[simp] theorem State.release_pending : s.release.pending = s.pending := rfl
@[simp] theorem State.release_result : s.release.result = s.result := rfl
@[simp] theorem State.release_emitted : s.release.emitted = s.emitted := rfl

@[simp] theorem State.answer_processing (r : Result) : (s.answer r).processing = s.processing := rfl
@[simp] theorem State.answer_buffer (r : Result) : (s.answer r).buffer = s.buffer := rfl
@[simp] theorem State.answer_lastPacket (r : Result) : (s.answer r).lastPacket = s.lastPacket := rfl
@[simp] theorem State.answer_available (r : Result) : (s.answer r).available = s.available := rfl
@[simp] theorem State.answer_params (r : Result) : (s.answer r).params = s.params := rfl
@[simp] theorem State.answer_pending (r : Result) : (s.answer r).pending = s.pending := rfl
@[simp] theorem State.answer_result (r : Result) : (s.answer r).result = r := rfl
@[simp] theorem State.answer_emitted (r : Result) : (s.answer r).emitted = s.emitted := rfl

@[simp] theorem State.emit_processing (e : Emission) : (s.emit e).processing = s.processing := rfl
@[simp] theorem State.emit_buffer (e : Emission) : (s.emit e).buffer = s.buffer := rfl
@[simp] theorem State.emit_lastPacket (e : Emission) : (s.emit e).lastPacket = s.lastPacket := rfl
@[simp] theorem State.emit_available (e : Emission) : (s.emit e).available = s.available := rfl
@[simp] theorem State.emit_params (e : Emission) : (s.emit e).params = s.params := rfl
@[simp] theorem State.emit_pending (e : Emission) : (s.emit e).pending = s.pending := rfl
@[simp] theorem State.emit_result (e : Emission) : (s.emit e).result = s.result := rfl
@[simp] theorem State.emit_emitted (e : Emission) : (s.emit e).emitted = e := rfl

@[simp] theorem State.resetSession_processing : s.resetSession.processing = false := rfl
@[simp] theorem State.resetSession_buffer : s.resetSession.buffer = [] := rfl
@[simp] theorem State.resetSession_lastPacket : s.resetSession.lastPacket = none := rfl
@[simp] theorem State.resetSession_available : s.resetSession.available = false := rfl
@[simp] theorem State.resetSession_params : s.resetSession.params = s.params := rfl
@[simp] theorem State.resetSession_pending : s.resetSession.pending = s.pending := rfl
@[simp] theorem State.resetSession_result : s.resetSession.result = s.result := rfl
@[simp] theorem State.resetSession_emitted : s.resetSession.emitted = s.emitted := rfl

/-- Two states are equal when their fields are. -/
theorem State.ext_fields {s t : State} (h₁ : s.processing = t.processing) (h₂ : s.buffer = t.buffer)
    (h₃ : s.lastPacket = t.lastPacket) (h₄ : s.available = t.available) (h₅ : s.params = t.params)
    (h₆ : s.pending = t.pending) (h₇ : s.result = t.result) (h₈ : s.emitted = t.emitted) : s = t := by
  cases s; cases t; simp_all

end Sys2Proof.Machine
end

