-- ==== Sys2Proof/Laws/Meanings.lean ====
section
/-! SUPPORT. The two meanings with more than one answer, arrivals and their words, and fetch: each said once. -/

namespace Sys2Proof.Machine

/-- TAKE returns the held packet and empties the slot, or returns NOT_READY and writes nothing else. -/
theorem execTake_cases (s : State) :
    (∃ p, s.available = true ∧ s.lastPacket = some p ∧ execTake s = .next (s.release.answer (.taken .ok p)))
    ∨ ((s.available = false ∨ s.lastPacket = none) ∧ execTake s = .next (s.answer (.taken .notReady []))) := by
  unfold execTake State.heldPacket
  cases ha : s.available <;> cases hp : s.lastPacket <;> simp

/-- ENCODE returns the frame, or is refused for its length. -/
theorem execEncode_cases (i : Byte) (P : List Byte) (s : State) :
    (s.payloadFits P = true ∧ execEncode i P s = .next (s.answer (.frame (frameOf P i))))
    ∨ (s.payloadFits P = false ∧ execEncode i P s = .refused .payloadTooLong) := by
  unfold execEncode
  cases s.payloadFits P <;> simp

@[simp] theorem hostWord_hostop (opc : BitVec 3) (ops : List Byte) : (HostWord.hostop opc ops).word = .hostop opc ops := rfl
@[simp] theorem hostWord_ctrl (rst : BitVec 1) : (HostWord.ctrl rst).word = .ctrl rst := rfl
@[simp] theorem unitWord_wire8 (d : Byte) : (UnitWord.wire8 d).word = .wire8 d := rfl
@[simp] theorem unitWord_stuff8 (b : Byte) : (UnitWord.stuff8 b).word = .stuff8 b := rfl
@[simp] theorem unitWord_unstuff8 (b : Byte) (next : Option Byte) : (UnitWord.unstuff8 b next).word = .unstuff8 b next := rfl
@[simp] theorem Arrival.word_op (w : HostWord) : (Arrival.op w).word = some w.word := rfl
@[simp] theorem Arrival.word_overlap (w₁ w₂ : HostWord) : (Arrival.overlap w₁ w₂).word = none := rfl
@[simp] theorem Arrival.word_atUnit (u : UnitWord) : (Arrival.atUnit u).word = some u.word := rfl
@[simp] theorem Arrival.word_ofWord (w : CommandWord) : (Arrival.ofWord w).word = some w := by cases w <;> rfl

/-- A word arrives as the host's exactly when its format is HOSTOP or CTRL. -/
theorem Arrival.fromHost_ofWord (w : CommandWord) :
    (Arrival.ofWord w).fromHost = true ↔ w.format = .hostop ∨ w.format = .ctrl := by
  cases w <;> simp [Arrival.ofWord, Arrival.fromHost, CommandWord.format]

/-- What the host issues decodes to one of its operations or to a reserved code. -/
theorem decode_hostWord {w : HostWord} {i : Instr} (h : decode w.word = .ok i) :
    i.isHostOperation = true ∨ ∃ opc, i = .reservedOpc opc := by
  cases w with
  | ctrl rst =>
    simp only [HostWord.word, decode] at h
    split at h <;> cases h
    exact .inl rfl
  | hostop opc operands =>
    simp only [HostWord.word, decode, decodeHostop] at h
    repeat' split at h
    all_goals cases h
    all_goals first | exact .inl rfl | exact .inr ⟨_, rfl⟩

/-- What stands at a unit's input always decodes, and never to a host operation. -/
theorem decode_unitWord (u : UnitWord) : ∃ i, decode u.word = .ok i ∧ i.isHostOperation = false := by
  cases u <;> simp only [UnitWord.word, decode] <;> split <;> exact ⟨_, rfl, rfl⟩

/-- An instruction is fetched exactly when the oldest arrival is one word that decodes to it. -/
theorem fetch_instr {s s' : State} {i : Instr} :
    fetch s = .instr i s' ↔
      ∃ a rest w, s.pending = a :: rest ∧ a.word = some w ∧ decode w = .ok i ∧ s' = { s with pending := rest } := by
  constructor
  · intro h
    unfold fetch at h
    split at h
    · cases h
    · rename_i a rest hp
      split at h
      · cases h
      · rename_i w ha
        split at h
        · rename_i j hd
          injection h with hi hs
          exact ⟨a, rest, w, hp, ha, hi ▸ hd, hs.symm⟩
        · cases h
        · cases h
  · rintro ⟨a, rest, w, hp, ha, hd, rfl⟩
    simp [fetch, hp, ha, hd]

end Sys2Proof.Machine
end

