-- ==== Sys2Proof/Laws/Ops.lean ====
section
/-! SUPPORT. What a closure, a FEED_BYTE and a FEED can do to the state: each said once. -/

namespace Sys2Proof.Machine

/-- A closure goes to IDLE, and on an accept also stores a packet, which is not empty. -/
theorem State.close_cases (s : State) :
    s.close = s.toIdle ∨ ∃ i P, closeFrame s.buffer = .accept (i :: P) ∧ s.close = s.toIdle.hold (i :: P) := by
  unfold State.close
  cases h : closeFrame s.buffer with
  | accept p =>
    right
    unfold closeFrame closeBody at h
    split at h <;> try cases h
    split at h <;> try cases h
    split at h <;> try cases h
    split at h <;> cases h
    exact ⟨_, _, rfl, rfl⟩
  | dropCrc => exact .inl rfl
  | dropEsc => exact .inl rfl
  | dropEmpty => exact .inl rfl

/-- Every effect a FEED_BYTE can have. -/
theorem State.feedByte_cases (s : State) (d : Byte) :
    (s.processing = false ∧ d = START ∧ s.feedByte d = s.openFrame)
    ∨ (s.processing = false ∧ d ≠ START ∧ s.feedByte d = s)
    ∨ (s.processing = true ∧ d = START ∧ s.feedByte d = s.restartFrame)
    ∨ (s.processing = true ∧ d = FINISH ∧ s.feedByte d = s.close)
    ∨ (s.processing = true ∧ d ≠ START ∧ d ≠ FINISH ∧ s.hasRoom = true ∧ s.feedByte d = s.bufAppend d)
    ∨ (s.processing = true ∧ d ≠ START ∧ d ≠ FINISH ∧ s.hasRoom = false ∧ s.feedByte d = s.toIdle) := by
  by_cases hs : d = START
  · subst hs; cases hp : s.processing <;> simp [State.feedByte, State.feedStart, hp]
  by_cases hf : d = FINISH
  · subst hf; cases hp : s.processing <;> simp [State.feedByte, State.feedFinish, hp, hs]
  · cases hp : s.processing <;> cases hr : s.hasRoom <;>
      simp [State.feedByte, State.feedData, wireClass_data hs hf, hp, hr, hs, hf]

/-- FEED_BYTE leaves the parameters and the host's side alone. -/
theorem State.feedByte_frame (s : State) (d : Byte) :
    (s.feedByte d).params = s.params ∧ (s.feedByte d).pending = s.pending
      ∧ (s.feedByte d).result = s.result ∧ (s.feedByte d).emitted = s.emitted := by
  rcases s.feedByte_cases d with ⟨_, _, e⟩ | ⟨_, _, e⟩ | ⟨_, _, e⟩ | ⟨_, _, e⟩ | ⟨_, _, _, _, e⟩ | ⟨_, _, _, _, e⟩ <;> rw [e]
  case inr.inr.inr.inl => rcases s.close_cases with e | ⟨i, P, -, e⟩ <;> rw [e] <;> simp
  all_goals simp

/-- FEED_BYTE does not read the host's side. -/
theorem State.feedByte_hostSide (s : State) (d : Byte) (p : List Arrival) (r : Result) (e : Emission) :
    ({ s with pending := p, result := r, emitted := e } : State).feedByte d
      = { s.feedByte d with pending := p, result := r, emitted := e } := by
  unfold State.feedByte State.feedStart State.feedFinish State.feedData State.close State.hasRoom
  split <;> (repeat' split) <;>
    simp_all [State.openFrame, State.restartFrame, State.toIdle, State.bufAppend, State.hold]

@[simp] theorem State.feed_nil (s : State) : s.feed [] = s := rfl
@[simp] theorem State.feed_cons (s : State) (d : Byte) (ds : List Byte) : s.feed (d :: ds) = (s.feedByte d).feed ds := rfl

theorem State.feed_append (s : State) (a b : List Byte) : s.feed (a ++ b) = (s.feed a).feed b := by simp [State.feed]

theorem State.feed_frame (ds : List Byte) : ∀ s : State,
    (s.feed ds).params = s.params ∧ (s.feed ds).pending = s.pending
      ∧ (s.feed ds).result = s.result ∧ (s.feed ds).emitted = s.emitted := by
  induction ds with
  | nil => intro s; simp
  | cons d ds ih =>
    intro s
    obtain ⟨h₁, h₂, h₃, h₄⟩ := ih (s.feedByte d)
    obtain ⟨k₁, k₂, k₃, k₄⟩ := s.feedByte_frame d
    exact ⟨h₁.trans k₁, h₂.trans k₂, h₃.trans k₃, h₄.trans k₄⟩

theorem State.feed_hostSide (ds : List Byte) : ∀ (s : State) (p : List Arrival) (r : Result) (e : Emission),
    ({ s with pending := p, result := r, emitted := e } : State).feed ds
      = { s.feed ds with pending := p, result := r, emitted := e } := by
  induction ds with
  | nil => intros; rfl
  | cons d ds ih => intro s p r e; rw [State.feed_cons, State.feedByte_hostSide, ih]; rfl

end Sys2Proof.Machine
end

