-- ==== Sys2Proof/Laws/PerInstr.lean ====
section
/-! SUPPORT. One family of statements about instructions as syntax: an instruction's word has the format the table gives its
mnemonic. -/

namespace Sys2Proof.Laws.TableFormat

/-- Every row of the opcode table under the instruction's mnemonic has the format of the instruction's word (30_encoding.md R75). -/
def Statement (i : Instr) : Prop := ∀ r ∈ opcodeTable, r.mnemonic = i.mnemonic → r.format = (encode i).format

theorem feedByte (d : Byte) : Statement (.feedByte d) := by
  simp only [Statement, Instr.mnemonic, encode, CommandWord.format]; decide
theorem available : Statement .available := by
  simp only [Statement, Instr.mnemonic, encode, CommandWord.format]; decide
theorem take : Statement .take := by
  simp only [Statement, Instr.mnemonic, encode, CommandWord.format]; decide
theorem encode (i : Byte) (P : List Byte) : Statement (.encode i P) := by
  simp only [Statement, Instr.mnemonic, Sys2Proof.encode, CommandWord.format]; decide
theorem reservedOpc (opc : BitVec 3) : Statement (.reservedOpc opc) := by
  simp only [Statement, Instr.mnemonic, Sys2Proof.encode, CommandWord.format]; decide
theorem reset : Statement .reset := by
  simp only [Statement, Instr.mnemonic, Sys2Proof.encode, CommandWord.format]; decide
theorem dStart : Statement .dStart := by
  simp only [Statement, Instr.mnemonic, Sys2Proof.encode, CommandWord.format]; decide
theorem dFinish : Statement .dFinish := by
  simp only [Statement, Instr.mnemonic, Sys2Proof.encode, CommandWord.format]; decide
theorem dData (d : Byte) : Statement (.dData d) := by
  simp only [Statement, Instr.mnemonic, Sys2Proof.encode, CommandWord.format]; decide
theorem sReserved (b : Byte) : Statement (.sReserved b) := by
  simp only [Statement, Instr.mnemonic, Sys2Proof.encode, CommandWord.format]; decide
theorem sLiteral (b : Byte) : Statement (.sLiteral b) := by
  simp only [Statement, Instr.mnemonic, Sys2Proof.encode, CommandWord.format]; decide
theorem uEscape (x : Option Byte) : Statement (.uEscape x) := by
  simp only [Statement, Instr.mnemonic, Sys2Proof.encode, CommandWord.format]; decide
theorem uLiteral (b : Byte) : Statement (.uLiteral b) := by
  simp only [Statement, Instr.mnemonic, Sys2Proof.encode, CommandWord.format]; decide

end Sys2Proof.Laws.TableFormat
end

