-- ==== Sys2Proof/Laws/Step.lean ====
section
/-! SUPPORT. What a step that answers a next state can have been, and runs in two parts. -/

namespace Sys2Proof.Machine

/-- A step to `t` was idle, or took off a word that asks for nothing, or ran the instruction of the oldest arrival's word. -/
theorem step_cases {s t : State} (h : step s = .next t) :
    (s.pending = [] ∧ t = s)
    ∨ (∃ a rest w, s.pending = a :: rest ∧ a.word = some w ∧ decode w = .error .resetNotAsserted ∧ t = { s with pending := rest })
    ∨ (∃ a rest w i, s.pending = a :: rest ∧ a.word = some w ∧ decode w = .ok i ∧ exec i { s with pending := rest } = .next t) := by
  unfold step fetch at h
  cases hp : s.pending with
  | nil => simp only [hp, Host.Outcome.next.injEq] at h; exact .inl ⟨rfl, h.symm⟩
  | cons a rest =>
    cases ha : a.word with
    | none => simp [hp, ha] at h
    | some w =>
      cases hd : decode w with
      | ok i => simp only [hp, ha, hd] at h; exact .inr (.inr ⟨a, rest, w, i, rfl, ha, hd, h⟩)
      | error e =>
        cases e <;> simp [hp, ha, hd] at h
        exact .inr (.inl ⟨a, rest, w, rfl, ha, hd, h.symm⟩)

/-- With a word at the head that decodes, a step is its instruction on the state with the word taken off. -/
theorem step_word {s : State} {a : Arrival} {rest : List Arrival} {w : CommandWord} {i : Instr}
    (hp : s.pending = a :: rest) (ha : a.word = some w) (hd : decode w = .ok i) :
    step s = exec i { s with pending := rest } := by
  simp [step, fetch, hp, ha, hd]

@[simp] theorem run_zero (s : State) : run 0 s = .next s := rfl

theorem run_succ {s t : State} (n : Nat) (h : step s = .next t) : run (n + 1) s = run n t := by simp [run, h]

theorem run_add (m n : Nat) : ∀ {s t : State}, run m s = .next t → run (m + n) s = run n t := by
  induction m with
  | zero => intro s t h; cases h; simp
  | succ m ih =>
    intro s t h
    rw [Nat.add_right_comm]
    simp only [run] at h ⊢
    cases hs : step s <;> simp [hs] at h ⊢
    exact ih h

end Sys2Proof.Machine
end

