-- ==== Sys2Proof/Laws/Stuffing.lean ====
section
/-! SUPPORT. STUFF1 by cases, STUFF over concatenation, and the frame as one stuffed sequence between delimiters. -/

namespace Sys2Proof.Machine

theorem stuff1_reserved {b : Byte} (h : reserved b = true) : stuff1 b = [ESCAPE, b ^^^ ESC_MASK] := by
  simp [stuff1, stuffClass_reserved h]

theorem stuff1_literal {b : Byte} (h : reserved b = false) : stuff1 b = [b] := by
  simp [stuff1, stuffClass_literal h]

@[simp] theorem stuff_nil : stuff [] = [] := rfl
theorem stuff_cons (b : Byte) (s : List Byte) : stuff (b :: s) = stuff1 b ++ stuff s := rfl

theorem stuff_append (s t : List Byte) : stuff (s ++ t) = stuff s ++ stuff t := by
  induction s with
  | nil => rfl
  | cons b s ih => simp [stuff_cons, ih]

theorem frameBody_eq (P : List Byte) (i : Byte) : frameBody P i = START :: stuff (i :: P) := by
  simp [frameBody, stuff_cons]

theorem frameOf_eq (P : List Byte) (i : Byte) :
    frameOf P i = START :: (stuff (i :: (P ++ [crc8 (frameBody P i)])) ++ [FINISH]) := by
  simp [frameOf, frameBody_eq, stuff_append, stuff_cons]

end Sys2Proof.Machine
end

