-- ==== Sys2Proof/Tests/Slice0.lean ====
section
/-! SUPPORT. Smoke tests of well-formedness, decode tests, one-step tests, and the witnesses of the statements' hypotheses. Expected
values come from spec/95_test_vectors.md unless a test's comment names another place. -/

namespace Sys2Proof.Tests

open Sys2Proof.Machine

/-- A state written as 95_test_vectors.md writes it: `(processing, buffer, available, lastPacket)`, both parameters `∞`. -/
def st (processing : Bool) (buffer : List Byte) (available : Bool) (lastPacket : Option (List Byte)) : State :=
  { State.reset with processing := processing, buffer := buffer, available := available, lastPacket := lastPacket }

/-- The same state with a finite BUF_CAP. -/
def capped (n : Nat) (s : State) : State := { s with params := ⟨.finite n, .unbounded⟩ }

/-- The same state with a finite PAYLOAD_MAX. -/
def payloadCapped (n : Nat) (s : State) : State := { s with params := ⟨.unbounded, .finite n⟩ }

/-- The reset state with one arrival pending. -/
def issued (a : Arrival) : State := { State.reset with pending := [a] }

/-- The outcome is the next state `t`. -/
def nextIs (o : Host.Outcome State Fault Refusal) (t : State) : Bool :=
  match o with
  | .next s => decide (s = t)
  | .fault _ => false
  | .refused _ => false

/-- The outcome is the refusal `r`. -/
def refusedWith (o : Host.Outcome State Fault Refusal) (r : Refusal) : Bool :=
  match o with
  | .next _ => false
  | .fault _ => false
  | .refused q => decide (q = r)

/-- The word decodes to `i`. -/
def decodesTo (w : CommandWord) (i : Instr) : Bool := decide ((decode w).toOption = some i)

/-! ### Ill-formed terms are refused by the check (30_encoding.md R66, R67, R72) -/

theorem test_wf_refuses_code_000_as_reserved : (Instr.reservedOpc 0b000#3).wellFormed = false := by decide
theorem test_wf_refuses_START_as_data : (Instr.dData 0x7D#8).wellFormed = false := by decide
theorem test_wf_refuses_FINISH_as_data : (Instr.dData 0x7E#8).wellFormed = false := by decide
theorem test_wf_refuses_7C_as_reserved : (Instr.sReserved 0x7C#8).wellFormed = false := by decide
theorem test_wf_refuses_80_as_reserved : (Instr.sReserved 0x80#8).wellFormed = false := by decide
theorem test_wf_refuses_7F_as_literal : (Instr.sLiteral 0x7F#8).wellFormed = false := by decide
theorem test_wf_refuses_ESCAPE_as_unstuffed_literal : (Instr.uLiteral 0x7F#8).wellFormed = false := by decide

/-! ### Decoding: words from 30_encoding.md R66, R67, R71 -/

theorem test_decode_feedByte : decodesTo (.hostop 0b000#3 [0x5E#8]) (.feedByte 0x5E#8) = true := by decide
theorem test_decode_available : decodesTo (.hostop 0b001#3 []) .available = true := by decide
theorem test_decode_take : decodesTo (.hostop 0b010#3 []) .take = true := by decide
theorem test_decode_encode :
    decodesTo (.hostop 0b011#3 [0x02#8, 0x48#8, 0x69#8]) (.encode 0x02#8 [0x48#8, 0x69#8]) = true := by decide
theorem test_decode_reserved : decodesTo (.hostop 0b111#3 [0x02#8]) (.reservedOpc 0b111#3) = true := by decide
theorem test_decode_reset : decodesTo (.ctrl 1#1) .reset = true := by decide
theorem test_decode_dStart : decodesTo (.wire8 0x7D#8) .dStart = true := by decide
theorem test_decode_dFinish : decodesTo (.wire8 0x7E#8) .dFinish = true := by decide
theorem test_decode_dData : decodesTo (.wire8 0x7F#8) (.dData 0x7F#8) = true := by decide
theorem test_decode_sReserved : decodesTo (.stuff8 0x7D#8) (.sReserved 0x7D#8) = true := by decide
theorem test_decode_sLiteral : decodesTo (.stuff8 0x7C#8) (.sLiteral 0x7C#8) = true := by decide
theorem test_decode_uEscape : decodesTo (.unstuff8 0x7F#8 (some 0x7F#8)) (.uEscape (some 0x7F#8)) = true := by decide
theorem test_decode_uLiteral : decodesTo (.unstuff8 0x7D#8 none) (.uLiteral 0x7D#8) = true := by decide
theorem test_decode_rejects_feedByte_without_byte : (decode (.hostop 0b000#3 [])).toOption = none := by decide
theorem test_decode_rejects_encode_without_index : (decode (.hostop 0b011#3 [])).toOption = none := by decide
theorem test_decode_rejects_take_with_operand : (decode (.hostop 0b010#3 [0x00#8])).toOption = none := by decide
theorem test_decode_rejects_reset_input_low : (decode (.ctrl 0#1)).toOption = none := by decide

/-- All 35 rows of spec/opcode_table.json: the row's match value, in the row's own format, decodes to the row's mnemonic. -/
theorem test_every_table_row_decodes_in_its_format :
    (opcodeTable.all fun r => ((decode (wordIn r.format r.pattern)).toOption.map Instr.mnemonic) == some r.mnemonic) = true := by
  decide
theorem test_table_has_35_rows : opcodeTable.length = 35 := by decide
theorem test_table_number_2_is_take : decodeTableWord 8 2 = some .take := by decide
theorem test_table_number_7D_is_dStart : decodeTableWord 8 0x7D = some .dStart := by decide

/-! ### CRC8 (95_test_vectors.md 2.1, 2.2), STUFF, UNSTUFF (2.3) -/

theorem test_crc_of_123456789 :
    crc8 [0x31#8, 0x32#8, 0x33#8, 0x34#8, 0x35#8, 0x36#8, 0x37#8, 0x38#8, 0x39#8] = 0x2A#8 := by decide +kernel
theorem test_crc_of_80 : crc8 [0x80#8] = 0x89#8 := by decide
theorem test_stuff : stuff [0x41#8, 0x7E#8, 0x10#8] = [0x41#8, 0x7F#8, 0x5E#8, 0x10#8] := by decide
theorem test_unstuff_fails_on_trailing_escape : unstuff [0x7D#8, 0x41#8, 0x7F#8] = none := by decide

/-! ### One step of each instruction (95_test_vectors.md 2.4 to 2.6, 3) -/

/-- 2.5 F-accept. -/
theorem test_feedByte_accepts :
    nextIs (exec (.feedByte 0x7E#8) (st true [0x7D#8, 0x00#8, 0x41#8, 0x7F#8, 0x5E#8, 0x10#8, 0x92#8] false none))
      (st false [] true (some [0x00#8, 0x41#8, 0x7E#8, 0x10#8])) = true := by decide +kernel
/-- 2.5 F-drop-keeps. -/
theorem test_feedByte_drop_keeps_the_held_packet :
    nextIs (exec (.feedByte 0x7E#8) (st true [0x7D#8, 0x00#8, 0x31#8] true (some [0x05#8, 0x41#8])))
      (st false [] true (some [0x05#8, 0x41#8])) = true := by decide +kernel
/-- 3.4: the trailing escape, with a matching CRC. -/
theorem test_dFinish_drops_trailing_escape :
    nextIs (exec .dFinish (st true [0x7D#8, 0x41#8, 0x7F#8, 0x7F#8, 0x8E#8] false none)) (st false [] false none) = true := by decide +kernel
/-- 3.2: no Index, with a matching CRC. -/
theorem test_dFinish_drops_empty_packet :
    (st true [0x7D#8, 0x8B#8] false none).feedLabel 0x7E#8 = .dropEmpty := by decide
/-- 2.5 F-restart-keeps. -/
theorem test_dStart_restarts :
    nextIs (exec .dStart (st true [0x7D#8, 0x05#8] true (some [0x00#8]))) (st true [0x7D#8] true (some [0x00#8])) = true := by decide
/-- 2.5 F-append-esc. -/
theorem test_dData_appends_escape :
    nextIs (exec (.dData 0x7F#8) (st true [0x7D#8, 0x00#8, 0x41#8] false none))
      (st true [0x7D#8, 0x00#8, 0x41#8, 0x7F#8] false none) = true := by decide
/-- 2.5 F-overflow. -/
theorem test_dData_overflows :
    nextIs (exec (.dData 0x10#8) (capped 5 (st true [0x7D#8, 0x00#8, 0x41#8, 0x7F#8, 0x5E#8] false none)))
      (capped 5 (st false [] false none)) = true := by decide
/-- 2.6. -/
theorem test_available_one :
    nextIs (exec .available (st false [] true (some [0x00#8])))
      { st false [] true (some [0x00#8]) with result := .bit 1#1 } = true := by decide
/-- 2.6: the open frame is untouched. -/
theorem test_take_leaves_the_open_frame :
    nextIs (exec .take (st true [0x7D#8, 0x05#8] true (some [0x00#8])))
      { st true [0x7D#8, 0x05#8] false none with result := .taken .ok [0x00#8] } = true := by decide
/-- 2.6. -/
theorem test_take_not_ready :
    nextIs (exec .take (st false [] false none)) { st false [] false none with result := .taken .notReady [] } = true := by decide
/-- 2.4: the maximum length. -/
theorem test_encode_all_reserved :
    nextIs (exec (.encode 0x7D#8 [0x7F#8, 0x7F#8, 0x7E#8]) (st false [] false none))
      { st false [] false none with
        result := .frame [0x7D#8, 0x7F#8, 0x5D#8, 0x7F#8, 0x5F#8, 0x7F#8, 0x5F#8, 0x7F#8, 0x5E#8, 0x7F#8, 0x5D#8, 0x7E#8] }
      = true := by decide +kernel
/-- 41_encoder.md R93. -/
theorem test_encode_too_long_is_refused :
    refusedWith (exec (.encode 0x00#8 [0x01#8, 0x02#8]) (payloadCapped 1 (st false [] false none))) .payloadTooLong = true := by decide
/-- 2.6. -/
theorem test_reset_discards_frame_and_packet :
    nextIs (exec .reset (st true [0x7D#8, 0x05#8] true (some [0x00#8]))) (st false [] false none) = true := by decide
/-- 30_encoding.md R72. -/
theorem test_reservedOpc_is_refused : refusedWith (exec (.reservedOpc 0b100#3) State.reset) .reservedOpcode = true := by decide
/-- 2.3. -/
theorem test_sReserved_emits_the_pair :
    nextIs (exec (.sReserved 0x7F#8) State.reset) { State.reset with emitted := .bytes [0x7F#8, 0x5F#8] } = true := by decide
/-- 2.3. -/
theorem test_sLiteral_emits_itself :
    nextIs (exec (.sLiteral 0x5D#8) State.reset) { State.reset with emitted := .bytes [0x5D#8] } = true := by decide
/-- 2.3: the second ESCAPE is data. -/
theorem test_uEscape_takes_an_escape_as_data :
    nextIs (exec (.uEscape (some 0x7F#8)) State.reset) { State.reset with emitted := .bytes [0x5F#8] } = true := by decide
/-- 2.3. -/
theorem test_uEscape_fails_at_the_end :
    nextIs (exec (.uEscape none) State.reset) { State.reset with emitted := .fail } = true := by decide
/-- 42_decoder.md R114. -/
theorem test_uLiteral_emits_itself :
    nextIs (exec (.uLiteral 0x41#8) State.reset) { State.reset with emitted := .bytes [0x41#8] } = true := by decide
/-- 20_memory.md R48. -/
theorem test_step_refuses_overlap :
    refusedWith (step { State.reset with pending := [.overlap (.hostop 0b010#3 []) (.ctrl 1#1)] }) .overlap = true := by decide
/-- 30_encoding.md R71: the placed word is the one the first step runs. -/
theorem test_step_runs_the_placed_word :
    nextIs (step (State.reset.withFetchWord 8 0x7D)) (st true [0x7D#8] false none) = true := by decide

/-! ### Witnesses: concrete values that meet the hypotheses of each statement, at the boundary of each clause -/

theorem witness_DecodeAndEncodeAgreeWithTheTable :
    (Instr.dData 0x7F#8).wellFormed = true ∧ (Instr.sLiteral 0x7C#8).wellFormed = true ∧ (Instr.reservedOpc 0b100#3).wellFormed = true
      ∧ decode (.wire8 0x7F#8) = .ok (.dData 0x7F#8) := ⟨by decide, by decide, by decide, rfl⟩
theorem witness_WireByteRunsAsFeedByte :
    decode (.wire8 0x7D#8) = .ok .dStart ∧ decode (.wire8 0x7E#8) = .ok .dFinish ∧ decode (.wire8 0x7F#8) = .ok (.dData 0x7F#8) :=
  ⟨rfl, rfl, rfl⟩
theorem witness_CrcIsLinear : ([0x01#8] : List Byte).length = ([0x80#8] : List Byte).length := by decide
theorem witness_SingleBitFlipChangesTheCrc : ([0x10#8, 0x92#8] : List Byte)[1]? = some 0x92#8 ∧ 7 < 8 := by decide
theorem witness_StuffOneEscapesReservedBytes :
    (0x7D ≤ (0x7D#8).toNat ∧ (0x7D#8).toNat ≤ 0x7F) ∧ (0x7D ≤ (0x7F#8).toNat ∧ (0x7F#8).toNat ≤ 0x7F)
      ∧ ¬ (0x7D ≤ (0x7C#8).toNat ∧ (0x7C#8).toNat ≤ 0x7F) ∧ ¬ (0x7D ≤ (0x80#8).toNat ∧ (0x80#8).toNat ≤ 0x7F) := by decide
theorem witness_StuffedSequenceShape : (stuff [0x41#8, 0x7E#8])[1]? = some ESCAPE := by decide
theorem witness_UnstuffReadsEscapePairs : (0x7E#8 : Byte) ≠ ESCAPE ∧ (0x80#8 : Byte) ≠ ESCAPE := by decide
theorem witness_StuffRowsEmitStuffOne :
    ((0x7F#8 : Byte) = 0x7D#8 ∨ (0x7F#8 : Byte) = 0x7E#8 ∨ (0x7F#8 : Byte) = 0x7F#8)
      ∧ ((0x80#8 : Byte) ≠ 0x7D#8 ∧ (0x80#8 : Byte) ≠ 0x7E#8 ∧ (0x80#8 : Byte) ≠ 0x7F#8) := by decide
theorem witness_UnstuffRowsEmitTheirByte : (0x7E#8 : Byte) ≠ 0x7F#8 := by decide
theorem witness_EncodeReturnsTheFrame_unbounded : State.reset.params.payloadMax = .unbounded := by decide
theorem witness_EncodeReturnsTheFrame_exact :
    ∃ n, (payloadCapped 2 State.reset).params.payloadMax = .finite n ∧ [0x41#8, 0x42#8].length ≤ n := ⟨2, by decide⟩
theorem witness_EncodeReturnsTheFrame_too_long :
    ∃ n, (payloadCapped 1 State.reset).params.payloadMax = .finite n ∧ n < [0x41#8, 0x42#8].length := ⟨1, by decide⟩
theorem witness_FrameShape :
    (frameOf [0x7E#8] 0x1D#8)[2]? = some ESCAPE
      ∧ reserved (crc8 (frameBody [] 0x00#8)) = false ∧ reserved (crc8 (frameBody [] 0x1D#8)) = true := by decide +kernel
theorem witness_StartByteOpensOrRestartsAFrame :
    (st false [] false none).processing = false ∧ (st true [0x7D#8, 0x12#8] false none).processing = true := by decide
theorem witness_IdleDiscardsEveryByteButStart :
    (st false [] true (some [0x00#8])).processing = false ∧ FINISH ≠ START ∧ ESCAPE ≠ START ∧ ESCAPE ≠ FINISH := by decide
theorem witness_DataByteIsAppendedWhenThereIsRoom :
    (st true [0x7D#8] false none).processing = true ∧ ESCAPE ≠ START ∧ ESCAPE ≠ FINISH
      ∧ (st true [0x7D#8] false none).params.bufCap = .unbounded := by decide
theorem witness_DataByteIsAppendedWhenThereIsRoom_last_place :
    (capped 2 (st true [0x7D#8] false none)).processing = true ∧ ESCAPE ≠ START ∧ ESCAPE ≠ FINISH
      ∧ ∃ n, (capped 2 (st true [0x7D#8] false none)).params.bufCap = .finite n ∧ [0x7D#8].length < n :=
  ⟨by decide, by decide, by decide, 2, by decide⟩
theorem witness_FullBufferAbandonsTheFrame :
    (capped 2 (st true [0x7D#8, 0x05#8] false none)).processing = true ∧ ESCAPE ≠ START ∧ ESCAPE ≠ FINISH
      ∧ (capped 2 (st true [0x7D#8, 0x05#8] false none)).params.bufCap = .finite 2
      ∧ (capped 2 (st true [0x7D#8, 0x05#8] false none)).buffer.length = 2 := by decide
theorem witness_FinishByteAlwaysEndsInIdle : (st true [0x7D#8] false none).processing = true := by decide
theorem witness_CrcFieldIsTakenFromTheEnd :
    ([0x7D#8, 0x00#8] : List Byte).getLast? ≠ some ESCAPE ∧ ([] : List Byte).getLast? ≠ some ESCAPE
      ∧ (([0x7D#8] : List Byte) ++ [ESCAPE, 0x5E#8]).head? = some START := by decide
theorem witness_FinishAfterStartIsDropped :
    (st true [0x7D#8] false none).processing = true ∧ (st true [0x7D#8] false none).buffer = [START] := by decide
/-- 95_test_vectors.md 2.5 F-drop-crc: the CRC does not match. -/
theorem witness_ClosureStoresExactlyTheGoodPackets_mismatch :
    (st true ([0x7D#8, 0x00#8] ++ [0x31#8]) false none).processing = true
      ∧ ([0x7D#8, 0x00#8] : List Byte).getLast? ≠ some ESCAPE ∧ crc8 [0x7D#8, 0x00#8] ≠ 0x31#8 := by decide
/-- 95_test_vectors.md 3.4: an escaped CRC field that matches, the body does not unstuff. -/
theorem witness_ClosureStoresExactlyTheGoodPackets_trailing_escape :
    (st true [0x7D#8, 0x41#8, 0x7F#8, 0x7F#8, 0x8E#8] false none).buffer
        = [0x7D#8, 0x41#8, 0x7F#8] ++ [ESCAPE, 0xAE#8 ^^^ 0x20#8]
      ∧ crc8 [0x7D#8, 0x41#8, 0x7F#8] = 0xAE#8 ∧ unstuff [0x7D#8, 0x41#8, 0x7F#8] = none := by decide +kernel
/-- 95_test_vectors.md 3.2: no Index. -/
theorem witness_ClosureStoresExactlyTheGoodPackets_no_index :
    (st true [0x7D#8, 0x8B#8] false none).buffer = [0x7D#8] ++ [0x8B#8] ∧ ([0x7D#8] : List Byte).getLast? ≠ some ESCAPE
      ∧ crc8 [0x7D#8] = 0x8B#8 ∧ unstuff [0x7D#8] = some [0x7D#8] := by decide
/-- 95_test_vectors.md 2.5 F-accept-escaped-crc. -/
theorem witness_ClosureStoresExactlyTheGoodPackets_accept :
    (st true [0x7D#8, 0x1D#8, 0x7F#8, 0x5E#8] false none).buffer = [0x7D#8, 0x1D#8] ++ [ESCAPE, 0x7E#8 ^^^ 0x20#8]
      ∧ crc8 [0x7D#8, 0x1D#8] = 0x7E#8 ∧ unstuff [0x7D#8, 0x1D#8] = some [0x7D#8, 0x1D#8] := by decide
/-- 95_test_vectors.md 2.5: a state and byte for each label that is not a closure's. -/
theorem witness_LabelNamesTheStateChange_bytes :
    (st false [] false none).feedLabel START = .openFrame ∧ (st false [] false none).feedLabel FINISH = .ignore
      ∧ (st true [0x7D#8, 0x05#8] false none).feedLabel START = .restart
      ∧ (st true [0x7D#8] false none).feedLabel ESCAPE = .append
      ∧ (capped 2 (st true [0x7D#8] false none)).feedLabel ESCAPE = .append
      ∧ (capped 2 (st true [0x7D#8, 0x05#8] false none)).feedLabel ESCAPE = .overflow := by decide
/-- 95_test_vectors.md 2.5, 3.2 and 3.4: a buffer for each label of a closure; the empty buffer is log 7's. -/
theorem witness_LabelNamesTheStateChange_closures :
    (st true [0x7D#8, 0x00#8, 0x31#8] false none).feedLabel FINISH = .dropCrc
      ∧ (st true [] false none).feedLabel FINISH = .dropCrc
      ∧ (st true [0x7D#8, 0x41#8, 0x7F#8, 0x7F#8, 0x8E#8] false none).feedLabel FINISH = .dropEsc
      ∧ (st true [0x7D#8, 0x8B#8] false none).feedLabel FINISH = .dropEmpty
      ∧ (st true [0x7D#8, 0x1D#8, 0x7F#8, 0x5E#8] false none).feedLabel FINISH = .accept := by decide +kernel
theorem witness_AvailableReturnsItsBit :
    (st false [] true (some [0x00#8])).available = true ∧ (st false [] false none).available = false := by decide
theorem witness_TakeReturnsThePacketOnce :
    (st false [] true (some [0x00#8])).available = true ∧ (st false [] true (some [0x00#8])).lastPacket = some [0x00#8]
      ∧ (st false [] false none).available = false := by decide
theorem witness_TakeWithoutPacketIsNotReady : (st false [] false none).available = false := by decide
theorem witness_ReservedCodesAreRefused :
    4 ≤ (0b100#3).toNat ∧ 4 ≤ (0b111#3).toNat
      ∧ { State.reset with pending := [.op (.hostop 0b100#3 [])] }.pending = .op (.hostop 0b100#3 []) :: [] := by decide
theorem witness_FieldsHaveTheirWritersOnly :
    (∃ t, exec .take (st true [0x7D#8] true (some [0x00#8])) = .next t)
      ∧ ∃ t, exec (.encode 0x00#8 []) (st true [0x7D#8] true (some [0x00#8])) = .next t := ⟨⟨_, rfl⟩, ⟨_, rfl⟩⟩
theorem witness_ResultsDoNotShowTheOpenFrame :
    (∃ t, exec .available State.reset = .next t) ∧ (∃ t, exec .take State.reset = .next t)
      ∧ ∃ t, exec (.encode 0x00#8 []) State.reset = .next t := ⟨⟨_, rfl⟩, ⟨_, rfl⟩, ⟨_, rfl⟩⟩
theorem witness_StepRunsTheDecodedInstruction :
    (issued (.op (.hostop 0b000#3 [0x7D#8]))).pending = .op (.hostop 0b000#3 [0x7D#8]) :: []
      ∧ decode (HostWord.hostop 0b000#3 [0x7D#8]).word = .ok (.feedByte 0x7D#8)
      ∧ (issued (.atUnit (.wire8 0x7D#8))).pending = .atUnit (.wire8 0x7D#8) :: [] := ⟨rfl, rfl, rfl⟩
theorem witness_HostHasExactlyFourOperationsAndReset :
    decode (HostWord.hostop 0b011#3 [0x00#8]).word = .ok (.encode 0x00#8 []) ∧ (Instr.encode 0x00#8 []).isHostOperation = true
      ∧ decode (HostWord.hostop 0b100#3 []).word = .ok (.reservedOpc 0b100#3)
      ∧ decode (UnitWord.stuff8 0x7D#8).word = .ok (.sReserved 0x7D#8) := ⟨rfl, rfl, rfl, rfl⟩
/-- A completing step of each kind, and an arrival that is not the host's. -/
theorem witness_HostHasExactlyFourOperationsAndReset_steps :
    State.reset.HostOnly ∧ (∃ t, step State.reset = .next t)
      ∧ (issued (.op (.ctrl 0#1))).HostOnly ∧ (∃ t, step (issued (.op (.ctrl 0#1))) = .next t)
      ∧ (issued (.op (.hostop 0b010#3 []))).HostOnly ∧ (∃ t, step (issued (.op (.hostop 0b010#3 []))) = .next t)
      ∧ ¬ (issued (.atUnit (.stuff8 0x7D#8))).HostOnly :=
  ⟨by decide, ⟨_, rfl⟩, by decide, ⟨_, rfl⟩, by decide, ⟨_, rfl⟩, by decide⟩
theorem witness_StepWithoutAnInstruction :
    State.reset.pending = []
      ∧ (issued (.overlap (.ctrl 1#1) (.ctrl 1#1))).pending = .overlap (.ctrl 1#1) (.ctrl 1#1) :: []
      ∧ (issued (.op (.ctrl 0#1))).pending = .op (.ctrl 0#1) :: [] := by decide
/-- Log 11: each operation with operand bytes just outside what it takes. -/
theorem witness_StepWithoutAnInstruction_misfit :
    (issued (.op (.hostop 0b000#3 []))).pending = .op (.hostop 0b000#3 []) :: []
      ∧ decode (.hostop 0b000#3 []) = .error .missingOperand ∧ decode (.hostop 0b011#3 []) = .error .missingOperand
      ∧ decode (.hostop 0b000#3 [0#8, 0#8]) = .error .unexpectedOperand ∧ decode (.hostop 0b001#3 [0#8]) = .error .unexpectedOperand
      ∧ decode (.hostop 0b010#3 [0#8]) = .error .unexpectedOperand ∧ DecodeError.missingOperand ≠ .resetNotAsserted
      ∧ DecodeError.unexpectedOperand ≠ .resetNotAsserted := ⟨rfl, rfl, rfl, rfl, rfl, rfl, by decide, by decide⟩
theorem witness_PlacedTableWordRunsNext : decodeTableWord 8 1 = some .available ∧ decodeTableWord 8 0x80 = some (.dData 0x80#8) := by
  decide
theorem witness_StepKeepsTheInvariants :
    (st true [0x7D#8, 0x05#8] true (some [0x00#8])).Inv
      ∧ ∃ t, step { st true [0x7D#8, 0x05#8] true (some [0x00#8]) with pending := [.op (.hostop 0b000#3 [0x41#8])] } = .next t :=
  ⟨by decide, _, rfl⟩
theorem witness_FeedRunsOneStepPerByte : (st true [0x7D#8] false none).pending = [] := by decide
theorem witness_FragmentationDoesNotMatter :
    State.reset.pending = [] ∧ ∀ i ∈ [Instr.feedByte 0x7D#8, .available, .encode 0x00#8 [], .feedByte 0x41#8],
      (∃ d, i = .feedByte d) ∨ i = .available
        ∨ ∃ idx P, i = .encode idx P ∧ State.reset.params.payloadMax.admits P.length = true := by
  refine ⟨rfl, fun i hi => ?_⟩
  simp only [List.mem_cons, List.not_mem_nil, or_false] at hi
  rcases hi with rfl | rfl | rfl | rfl
  · exact .inl ⟨_, rfl⟩
  · exact .inr (.inl rfl)
  · exact .inr (.inr ⟨_, _, rfl, rfl⟩)
  · exact .inl ⟨_, rfl⟩
/-- 95_test_vectors.md 1.1: an 8-byte frame needs 7 places. -/
theorem witness_RoundTripFromAnyState :
    (capped 7 (st true [0x7D#8, 0x05#8] false none)).pending = []
      ∧ (capped 7 (st true [0x7D#8, 0x05#8] false none)).params.bufCap.admits ((frameOf [0x41#8, 0x7E#8, 0x10#8] 0x00#8).length - 1)
        = true := by decide +kernel
theorem witness_EncodeFeedTakeGivesBackThePacket :
    (st false [] true (some [0x00#8])).pending = []
      ∧ (st false [] true (some [0x00#8])).params.payloadMax.admits [0x41#8].length = true
      ∧ (st false [] true (some [0x00#8])).params.bufCap.admits ((frameOf [0x41#8] 0x05#8).length - 1) = true := by decide
theorem witness_FrameAfterAnyGarbageIsDecoded :
    (capped 7 State.reset).params.bufCap.admits ((frameOf [0x41#8, 0x7E#8, 0x10#8] 0x00#8).length - 1) = true := by decide +kernel
theorem witness_FrameTooLongForTheBufferIsDropped :
    (capped 6 State.reset).params.bufCap.admits ((frameOf [0x41#8, 0x7E#8, 0x10#8] 0x00#8).length - 1) = false := by decide +kernel
theorem witness_RecommendedBufferFitsEveryFrame :
    (⟨.finite 11, .finite 3⟩ : Params).payloadMax = .finite 3 ∧ (⟨.finite 11, .finite 3⟩ : Params).bufCap.admits (2 * 3 + 5) = true
      ∧ (⟨.finite 11, .finite 3⟩ : Params).payloadMax.admits [0x7F#8, 0x7F#8, 0x7E#8].length = true := by decide
/-- 95_test_vectors.md 3.3. -/
theorem witness_UnescapedEscapeAsCrcIsAccepted :
    crc8 (frameBody [] 0xA1#8) = ESCAPE ∧ (capped 3 State.reset).params.bufCap.admits ((frameBody [] 0xA1#8).length + 1) = true := by
  decide
/-- 95_test_vectors.md 3.6: bit 0 of position 5, `10` to `11`. -/
theorem witness_ClassPreservingBitFlipIsNeverAccepted :
    State.reset.processing = false ∧ 0 < 5 ∧ 5 + 1 < (frameOf [0x41#8, 0x7E#8, 0x10#8] 0x00#8).length
      ∧ (frameOf [0x41#8, 0x7E#8, 0x10#8] 0x00#8)[5]? = some 0x10#8 ∧ 0 < 8 ∧ reserved 0x10#8 = false
      ∧ reserved (0x10#8 ^^^ (1#8 <<< 0)) = false
      ∧ State.reset.params.bufCap.admits ((frameOf [0x41#8, 0x7E#8, 0x10#8] 0x00#8).length - 1) = true := by decide +kernel
theorem witness_InstancesAreIndependent :
    0 ≠ 1 ∧ (∃ b₁, stepInstance 0 [State.reset, State.reset] = .next b₁ ∧ ∃ b₂, stepInstance 1 b₁ = .next b₂) :=
  ⟨by decide, _, rfl, _, rfl⟩
/-- The other instance's own step is refused (20_memory.md R48). -/
theorem witness_InstancesAreIndependent_other_refused :
    (∃ b₁, stepInstance 0 [State.reset, issued (.overlap (.ctrl 1#1) (.ctrl 1#1))] = .next b₁
        ∧ stepInstance 1 b₁ = .refused .overlap)
      ∧ stepInstance 1 [State.reset, issued (.overlap (.ctrl 1#1) (.ctrl 1#1))] = .refused .overlap :=
  ⟨⟨_, rfl, rfl⟩, rfl⟩

end Sys2Proof.Tests
end

section
/-! Reserved operation codes (30_encoding.md R72): they decode without a look at the operands, and their meaning is the refusal. -/

namespace Sys2Proof.Machine

/-- The refusal reads neither the code nor the state (30_encoding.md R72). -/
@[simp] theorem exec_reservedOpc (opc : BitVec 3) (s : State) : exec (.reservedOpc opc) s = .refused .reservedOpcode := rfl

/-- A code from 4 on is none of the four operation codes, so the operand bytes are not looked at (60_exceptions.md R147). -/
theorem decode_hostop_reserved {opc : BitVec 3} (ops : List Byte) (h : 4 ≤ opc.toNat) :
    decode (.hostop opc ops) = .ok (.reservedOpc opc) := by
  have notOperation : ∀ c : BitVec 3, c.toNat < 4 → opc ≠ c := by
    rintro c hc rfl
    omega
  simp only [decode, decodeHostop]
  rw [if_neg (notOperation 0b000#3 (by decide)), if_neg (notOperation 0b001#3 (by decide)),
    if_neg (notOperation 0b010#3 (by decide)), if_neg (notOperation 0b011#3 (by decide))]

/-- Settles O34: the word decodes to RESERVED_OPC whatever its operands are, and a step on it is that instruction's refusal. -/
theorem reservedCodesAreRefused : Obligations.ReservedCodesAreRefused := by
  intro s opc ops rest hopc
  refine ⟨exec_reservedOpc opc s, fun hpending => ?_⟩
  calc step s
      = exec (.reservedOpc opc) { s with pending := rest } :=
        step_word hpending (Arrival.word_op _) (decode_hostop_reserved ops hopc)
    _ = .refused .reservedOpcode := exec_reservedOpc opc _

end Sys2Proof.Machine
end

section
/-! CRC8 (40_checksum.md): the shift on bytes, and the shift on polynomials over GF(2), where it is multiplication by `x` modulo the
generator. -/

namespace Sys2Proof.Machine

open Polynomial

/-! ### The fold of R81 and R82 -/

@[simp] theorem crc8_nil : crc8 [] = 0#8 := rfl

/-- There is no final XOR: a further byte is one more CRC_STEP on the result (40_checksum.md R82). -/
@[simp] theorem crc8_concat (s : List Byte) (b : Byte) : crc8 (s ++ [b]) = crcStep (crc8 s) b := by
  simp [crc8, List.foldl_append]

/-- `& 0xFF` drops the bit shifted out of the 9-bit intermediate (40_checksum.md R81). -/
theorem setWidth_doubled (a : Byte) : (a.setWidth 9 <<< 1).setWidth 8 = a <<< 1 := by
  rw [BitVec.setWidth_shiftLeft_of_le (by decide), BitVec.setWidth_setWidth_of_le _ (by decide), BitVec.setWidth_eq]

/-- The branches of a shift in 8 bits, with the top bit tested by its mask (40_checksum.md R81). -/
theorem crcShift_of_mask (a : Byte) :
    crcShift a = if a &&& 0x80#8 ≠ 0#8 then (a <<< 1) ^^^ CRC_POLY else a <<< 1 := by
  simp only [crcShift, BitVec.setWidth_xor, setWidth_doubled, BitVec.setWidth_setWidth_of_le _ (show 8 ≤ 9 by decide),
    BitVec.setWidth_eq]

theorem crcShifts_eq_iterate (n : Nat) (a : Byte) : crcShifts n a = crcShift^[n] a := by
  induction n generalizing a with
  | zero => rfl
  | succ n ih => rw [crcShifts, ih, Function.iterate_succ_apply]

/-- Settles O5: the fold over a sequence with one more byte, and the eight shifts of CRC_STEP as an iteration. -/
theorem crcFoldsEightShiftsPerByte : Obligations.CrcFoldsEightShiftsPerByte := by
  refine ⟨crc8_nil, crc8_concat, fun acc b => ?_⟩
  rw [crcStep, crcShifts_eq_iterate]
  exact congrArg (fun shift : Byte → Byte => shift^[8] (acc ^^^ b)) (funext crcShift_of_mask)

/-! ### Bytes and messages as polynomials -/

@[simp] theorem bytePoly_zero : bytePoly 0#8 = 0 := by simp [bytePoly]

/-- XOR is the addition of GF(2), coefficient by coefficient. -/
@[simp] theorem bytePoly_xor (a b : Byte) : bytePoly (a ^^^ b) = bytePoly a + bytePoly b := by
  rw [bytePoly, bytePoly, bytePoly, ← Finset.sum_add_distrib]
  refine Finset.sum_congr rfl fun k _ => ?_
  cases ha : a.getLsbD k <;> cases hb : b.getLsbD k <;> simp [ha, hb, CharTwo.add_self_eq_zero]

/-- The constant 0x85 is the generator with its `x^8` term implicit (40_checksum.md R83). -/
theorem bytePoly_CRC_POLY : bytePoly CRC_POLY = X ^ 7 + X ^ 2 + 1 := by
  have bits : ∀ k < 8, CRC_POLY.getLsbD k = decide (k = 0 ∨ k = 2 ∨ k = 7) := by decide
  rw [bytePoly, Finset.sum_congr rfl fun k hk => by rw [bits k (Finset.mem_range.mp hk)]]
  simp [Finset.sum_range_succ, add_comm, ← add_assoc]

/-- Shifting left multiplies by `x`; the bit shifted out is the term `x^8` of the product, which the byte no longer holds. -/
theorem X_mul_bytePoly (a : Byte) : X * bytePoly a = bytePoly (a <<< 1) + if a.getLsbD 7 then X ^ 8 else 0 := by
  have moved : ∀ k ∈ Finset.range 7, X * (if a.getLsbD k then X ^ k else 0 : (ZMod 2)[X]) =
      if (a <<< 1).getLsbD (k + 1) then X ^ (k + 1) else 0 := fun k hk => by
    have inByte : k + 1 < 8 := Nat.succ_lt_succ (Finset.mem_range.mp hk)
    rw [BitVec.getLsbD_shiftLeft, decide_eq_true inByte, mul_ite, mul_zero, ← pow_succ']
    simp
  rw [bytePoly, bytePoly, Finset.mul_sum, Finset.sum_range_succ, Finset.sum_range_succ' _ 7, Finset.sum_congr rfl moved]
  simp [pow_succ']

@[simp] theorem messagePoly_nil : messagePoly [] = 0 := rfl

@[simp] theorem messagePoly_concat (s : List Byte) (b : Byte) :
    messagePoly (s ++ [b]) = messagePoly s * X ^ 8 + bytePoly b := by
  simp [messagePoly, List.foldl_append]

/-! ### Residues modulo the generator of R83 -/

/-- The generator polynomial (40_checksum.md R83). -/
noncomputable def crcGenerator : (ZMod 2)[X] := X ^ 8 + X ^ 7 + X ^ 2 + 1

/-- The residue class of a polynomial modulo the generator, in `GF(2)[x] / (x^8 + x^7 + x^2 + 1)`. -/
noncomputable def crcResidue : (ZMod 2)[X] →+* AdjoinRoot crcGenerator := AdjoinRoot.mk crcGenerator

theorem crcResidue_eq_iff (p q : (ZMod 2)[X]) : crcResidue p = crcResidue q ↔ crcGenerator ∣ p - q := AdjoinRoot.mk_eq_mk

/-- One shift multiplies by `x` up to a multiple of the generator: the polynomial is added exactly when `x^8` came up. -/
theorem X_mul_bytePoly_eq_crcShift (a : Byte) :
    X * bytePoly a = bytePoly (crcShift a) + if a.getLsbD 7 then crcGenerator else 0 := by
  rw [crcShift_eq, bytePoly_xor, X_mul_bytePoly, add_assoc]
  congr 1
  cases a.getLsbD 7
  · simp
  · have twice := CharTwo.add_self_eq_zero (X ^ 7 + X ^ 2 + 1 : (ZMod 2)[X])
    simp only [if_true, bytePoly_CRC_POLY, crcGenerator]
    linear_combination -twice

theorem crcResidue_crcShift (a : Byte) : crcResidue (bytePoly (crcShift a)) = crcResidue (X * bytePoly a) := by
  rw [eq_comm, crcResidue_eq_iff, X_mul_bytePoly_eq_crcShift, add_sub_cancel_left]
  cases a.getLsbD 7 <;> simp

theorem crcResidue_crcShifts (n : Nat) (a : Byte) :
    crcResidue (bytePoly (crcShifts n a)) = crcResidue (X ^ n * bytePoly a) := by
  induction n generalizing a with
  | zero => simp [crcShifts]
  | succ n ih => rw [crcShifts, ih, map_mul, crcResidue_crcShift, ← map_mul, ← mul_assoc, ← pow_succ]

/-- CRC_STEP adds the byte to the accumulator and multiplies by `x^8`. -/
theorem crcResidue_crcStep (acc b : Byte) :
    crcResidue (bytePoly (crcStep acc b)) = crcResidue (X ^ 8 * (bytePoly acc + bytePoly b)) := by
  rw [crcStep, crcResidue_crcShifts, bytePoly_xor]

/-- The CRC and the message times `x^8` leave the same remainder by the generator, by induction on the last byte. -/
theorem crcResidue_messagePoly (s : List Byte) :
    crcResidue (messagePoly s * X ^ 8) = crcResidue (bytePoly (crc8 s)) := by
  induction s using List.reverseRecOn with
  | nil => simp
  | append_singleton s b ih =>
    calc crcResidue (messagePoly (s ++ [b]) * X ^ 8)
        = crcResidue (X ^ 8) * (crcResidue (messagePoly s * X ^ 8) + crcResidue (bytePoly b)) := by
          rw [messagePoly_concat, mul_comm, map_mul, map_add]
      _ = crcResidue (X ^ 8 * (bytePoly (crc8 s) + bytePoly b)) := by rw [ih, map_mul, map_add]
      _ = crcResidue (bytePoly (crc8 (s ++ [b]))) := by rw [crc8_concat, crcResidue_crcStep]

/-- Settles O6: equal residues differ by a multiple of the generator. -/
theorem crcIsTheRemainderByTheGenerator : Obligations.CrcIsTheRemainderByTheGenerator := fun s =>
  (crcResidue_eq_iff _ _).mp (crcResidue_messagePoly s)

end Sys2Proof.Machine
end

section
/-! STUFF1 and STUFF (41_encoder.md R90, R91): a byte becomes an escape pair or stays, and what that gives for a sequence. -/

namespace Sys2Proof.Machine

/-- The range of R62, on the byte's value. -/
theorem reserved_iff_toNat (b : Byte) : reserved b = true ↔ 0x7D ≤ b.toNat ∧ b.toNat ≤ 0x7F := by
  simp [reserved, BitVec.le_def]

/-- Settles O10: the two cases of STUFF1, on the range that defines RESERVED. -/
theorem stuffOneEscapesReservedBytes : Obligations.StuffOneEscapesReservedBytes := by
  intro b
  rw [← reserved_iff_toNat]
  exact ⟨stuff1_reserved, fun h => stuff1_literal (Bool.eq_false_of_not_eq_true h)⟩

/-! ### One byte -/

/-- The second bytes of the three escape pairs are themselves not reserved. -/
theorem escaped_ne_reserved :
    ∀ x ∈ [0x5D#8, 0x5E#8, 0x5F#8], x ≠ START ∧ x ≠ FINISH ∧ x ≠ ESCAPE := by decide

/-- STUFF1 gives one of the three escape pairs, or the byte itself when it is not reserved. -/
theorem stuff1_cases (b : Byte) :
    (∃ x ∈ [0x5D#8, 0x5E#8, 0x5F#8], stuff1 b = [ESCAPE, x])
      ∨ (b ≠ START ∧ b ≠ FINISH ∧ b ≠ ESCAPE) ∧ stuff1 b = [b] := by
  cases h : reserved b with
  | false => exact .inr ⟨not_reserved h, stuff1_literal h⟩
  | true =>
    refine .inl ⟨b ^^^ ESC_MASK, ?_, stuff1_reserved h⟩
    rcases (reserved_iff b).mp h with rfl | rfl | rfl <;> decide

theorem length_stuff1 (b : Byte) : (stuff1 b).length = if reserved b then 2 else 1 := by
  cases h : reserved b with
  | false => rw [stuff1_literal h]; rfl
  | true => rw [stuff1_reserved h]; rfl

theorem ne_delimiter_of_mem_stuff1 {b c : Byte} (h : c ∈ stuff1 b) : c ≠ START ∧ c ≠ FINISH := by
  rcases stuff1_cases b with ⟨x, hx, pair⟩ | ⟨⟨notStart, notFinish, -⟩, literal⟩
  · obtain ⟨notStart, notFinish, -⟩ := escaped_ne_reserved x hx
    rw [pair, List.mem_pair] at h
    rcases h with rfl | rfl
    · decide
    · exact ⟨notStart, notFinish⟩
  · rw [literal, List.mem_singleton] at h
    exact h ▸ ⟨notStart, notFinish⟩

/-! ### A sequence -/

theorem stuff_eq_flatMap (s : List Byte) : stuff s = s.flatMap stuff1 := by
  induction s with
  | nil => rfl
  | cons b s ih => rw [stuff_cons, ih, List.flatMap_cons]

/-- Escaping adds one byte for every reserved byte; both bounds of R91 follow. -/
theorem length_stuff (s : List Byte) : (stuff s).length = s.length + s.countP reserved := by
  induction s with
  | nil => rfl
  | cons b s ih =>
    rw [stuff_cons, List.length_append, length_stuff1, ih, List.length_cons, List.countP_cons]
    split <;> omega

theorem ne_delimiter_of_mem_stuff {s : List Byte} {c : Byte} (h : c ∈ stuff s) : c ≠ START ∧ c ≠ FINISH := by
  rw [stuff_eq_flatMap, List.mem_flatMap] at h
  obtain ⟨_, _, hc⟩ := h
  exact ne_delimiter_of_mem_stuff1 hc

/-- An ESCAPE is never the second byte of a pair and never a literal, so it can only stand first in its pair. -/
theorem escape_in_stuff_opens_pair (s : List Byte) (k : Nat) (h : (stuff s)[k]? = some ESCAPE) :
    ∃ x ∈ [0x5D#8, 0x5E#8, 0x5F#8], (stuff s)[k + 1]? = some x := by
  induction s generalizing k with
  | nil => simp at h
  | cons b s ih =>
    rw [stuff_cons] at h ⊢
    rcases stuff1_cases b with ⟨x, hx, pair⟩ | ⟨⟨-, -, notEscape⟩, literal⟩
    · rw [pair] at h ⊢
      match k with
      | 0 => exact ⟨x, hx, rfl⟩
      | 1 => exact absurd (Option.some.inj h) (escaped_ne_reserved x hx).2.2
      | k + 2 => exact ih k h
    · rw [literal] at h ⊢
      match k with
      | 0 => exact absurd (Option.some.inj h) notEscape
      | k + 1 => exact ih k h

/-- Settles O11: the exact length gives the two bounds, the other clauses are the lemmas above. -/
theorem stuffedSequenceShape : Obligations.StuffedSequenceShape := by
  refine ⟨stuff_nil, fun s => ⟨stuff_eq_flatMap s, ?_, ?_, ?_, ?_, escape_in_stuff_opens_pair s⟩⟩
  · rw [length_stuff]
    exact Nat.le_add_right _ _
  · rw [length_stuff, two_mul]
    exact Nat.add_le_add_left List.countP_le_length _
  · exact fun h => (ne_delimiter_of_mem_stuff h).1 rfl
  · exact fun h => (ne_delimiter_of_mem_stuff h).2 rfl

end Sys2Proof.Machine
end

section
/-! The received CRC (42_decoder.md R108): what the buffer's accessors read at its end, and from that the two forms of the field. -/

namespace Sys2Proof.Machine

@[simp] theorem bufLast_concat (body : List Byte) (c : Byte) : bufLast (body ++ [c]) = some c := List.getLast?_concat

/-- The byte before the last of a nonempty buffer is the last byte of the rest; a buffer of one byte has none. -/
@[simp] theorem bufSecondToLast_concat (body : List Byte) (c : Byte) : bufSecondToLast (body ++ [c]) = body.getLast? := by
  rcases body.eq_nil_or_concat' with rfl | ⟨front, b, rfl⟩
  · rfl
  · simp [bufSecondToLast]

@[simp] theorem bufFirst_append_length (front back : List Byte) : bufFirst (front ++ back) front.length = front :=
  List.take_left

/-- With ESCAPE before the last byte the field is two bytes and the last one is masked. -/
@[simp] theorem crcExtract_escaped (body : List Byte) (c : Byte) :
    crcExtract (body ++ [ESCAPE, c]) = some (c ^^^ ESC_MASK, body) := by
  have regroup : body ++ [ESCAPE, c] = (body ++ [ESCAPE]) ++ [c] := by simp
  have lastByte : bufLast (body ++ [ESCAPE, c]) = some c := by rw [regroup, bufLast_concat]
  have before : bufSecondToLast (body ++ [ESCAPE, c]) = some ESCAPE := by
    rw [regroup, bufSecondToLast_concat, List.getLast?_concat]
  have rest : (body ++ [ESCAPE, c]).length - 2 = body.length := by simp
  simp only [crcExtract, lastByte, if_pos before, rest, bufFirst_append_length]

/-- Without it, also when the byte stands alone, the field is the last byte (42_decoder.md R109). -/
theorem crcExtract_plain {body : List Byte} (c : Byte) (h : body.getLast? ≠ some ESCAPE) :
    crcExtract (body ++ [c]) = some (c, body) := by
  have before : bufSecondToLast (body ++ [c]) ≠ some ESCAPE := by rwa [bufSecondToLast_concat]
  have rest : (body ++ [c]).length - 1 = body.length := by simp
  simp only [crcExtract, bufLast_concat, if_neg before, rest, bufFirst_append_length]

/-- START is not ESCAPE, so a buffer that begins with START has it before the escaped field. -/
theorem head_of_escaped_field {body : List Byte} {c : Byte} (h : (body ++ [ESCAPE, c]).head? = some START) :
    body.head? = some START := by
  cases body with
  | nil => exact absurd (Option.some.inj h).symm START_ne_ESCAPE
  | cons b body => exact h

/-- Settles O25: both forms of the field, and a body that begins with START adds at least one byte to the two. -/
theorem crcFieldIsTakenFromTheEnd : Obligations.CrcFieldIsTakenFromTheEnd := by
  refine fun body c => ⟨crcExtract_escaped body c, crcExtract_plain c, fun h => ?_⟩
  have begins := head_of_escaped_field h
  refine ⟨?_, begins⟩
  have nonempty : 0 < body.length := List.length_pos_iff.mpr fun empty => by simp [empty] at begins
  rw [List.length_append]
  exact Nat.add_le_add_right nonempty 2

end Sys2Proof.Machine
end

section
/-! AVAILABLE (43_decoder_access.md R131): its meaning as one equation, and the bit for each value of the flag. -/

namespace Sys2Proof.Machine

@[simp] theorem flagBit_true : flagBit true = 1#1 := rfl

@[simp] theorem flagBit_false : flagBit false = 0#1 := rfl

/-- AVAILABLE completes in every state; the answer is its only write (43_decoder_access.md R131). -/
@[simp] theorem exec_available (s : State) : exec .available s = .next (s.answer (.bit (flagBit s.available))) := rfl

theorem exec_available_of_flag {s : State} {flag : Bool} (h : s.available = flag) :
    exec .available s = .next { s with result := .bit (flagBit flag) } := by
  rw [← h]
  exact exec_available s

/-- Settles O29: the one equation of AVAILABLE, read at each value of the flag. -/
theorem availableReturnsItsBit : Obligations.AvailableReturnsItsBit := by
  refine fun s => ⟨fun held => ?_, fun notHeld => ?_⟩
  · rw [exec_available_of_flag held, flagBit_true]
  · rw [exec_available_of_flag notHeld, flagBit_false]

end Sys2Proof.Machine
end

section
/-! The words and the opcode table (30_encoding.md sections 2 to 4): which rows a field matches, what a HOSTOP word can decode to, and
the agreement of decoder, encoder and table. -/

namespace Sys2Proof

/-! ### The rows a field matches -/

/-- The table's spelling of a decoder class (30_encoding.md R66). -/
def WireClass.mnemonic : WireClass → String
  | .start => "D_START"
  | .finish => "D_FINISH"
  | .data => "D_DATA"

/-- The table's spelling of a stuffing class (30_encoding.md R67). -/
def StuffClass.mnemonic : StuffClass → String
  | .reserved => "S_RESERVED"
  | .literal => "S_LITERAL"

/-- The table's spelling of an unstuffing class (30_encoding.md R67). -/
def UnstuffClass.mnemonic : UnstuffClass → String
  | .escape => "U_ESCAPE"
  | .literal => "U_LITERAL"

/-- The mask and match values of R75's WIRE8 rows cut the bytes into the three classes. -/
theorem rowMnemonics_wire8 : ∀ d : Byte, (CommandWord.wire8 d).rowMnemonics = [(wireClass d).mnemonic] := by decide +kernel

theorem rowMnemonics_stuff8 : ∀ b : Byte, (CommandWord.stuff8 b).rowMnemonics = [(stuffClass b).mnemonic] := by decide +kernel

/-- The rows are those of the byte alone; the byte after it is an operand. -/
theorem rowMnemonics_unstuff8 (b : Byte) (next : Option Byte) :
    (CommandWord.unstuff8 b next).rowMnemonics = [(unstuffClass b).mnemonic] := by
  have ofByte : ∀ b : Byte, (CommandWord.unstuff8 b none).rowMnemonics = [(unstuffClass b).mnemonic] := by decide +kernel
  exact ofByte b

/-- The rows are those of the code alone, whatever operands stand after it. -/
theorem rowMnemonics_hostop (opc : BitVec 3) (ops : List Byte) :
    (CommandWord.hostop opc ops).rowMnemonics = (CommandWord.hostop opc []).rowMnemonics := rfl

/-- A code with bit 2 set matches the row of the reserved codes only (30_encoding.md R72). -/
theorem rowMnemonics_reservedOpc : ∀ opc : BitVec 3, opc.getLsbD 2 = true →
    (CommandWord.hostop opc []).rowMnemonics = ["RESERVED_OPC"] := by decide

theorem length_rowMnemonics_hostop : ∀ opc : BitVec 3, (CommandWord.hostop opc []).rowMnemonics.length = 1 := by decide

/-- Settles O2: each format's field has one class, and the class one mnemonic. -/
theorem everyFieldValueMatchesExactlyOneRow : Obligations.EveryFieldValueMatchesExactlyOneRow := by
  refine ⟨fun b x => ⟨?_, ?_, ?_⟩, fun opc ops => ?_⟩
  · rw [rowMnemonics_wire8, List.length_singleton]
  · rw [rowMnemonics_stuff8, List.length_singleton]
  · rw [rowMnemonics_unstuff8, List.length_singleton]
  · rw [rowMnemonics_hostop, length_rowMnemonics_hostop]

/-! ### What a word decodes to -/

/-- Bit 2 is what sets the reserved codes apart (30_encoding.md R72). -/
theorem four_le_toNat_iff : ∀ opc : BitVec 3, 4 ≤ opc.toNat ↔ opc.getLsbD 2 = true := by decide

/-- The operation codes of R71 with the operands each takes, and the reserved codes. -/
theorem decode_hostop_cases {opc : BitVec 3} {ops : List Byte} {i : Instr} (h : decode (.hostop opc ops) = .ok i) :
    (∃ d, opc = 0b000#3 ∧ ops = [d] ∧ i = .feedByte d)
    ∨ (opc = 0b001#3 ∧ ops = [] ∧ i = .available)
    ∨ (opc = 0b010#3 ∧ ops = [] ∧ i = .take)
    ∨ (∃ idx P, opc = 0b011#3 ∧ ops = idx :: P ∧ i = .encode idx P)
    ∨ (opc.getLsbD 2 = true ∧ i = .reservedOpc opc) := by
  have codes : ∀ c : BitVec 3, c = 0b000#3 ∨ c = 0b001#3 ∨ c = 0b010#3 ∨ c = 0b011#3 ∨ c.getLsbD 2 = true := by decide
  rcases codes opc with rfl | rfl | rfl | rfl | reservedCode
  · match ops with
    | [d] => cases h; exact .inl ⟨d, rfl, rfl, rfl⟩
    | [] | _ :: _ :: _ => cases h
  · match ops with
    | [] => cases h; exact .inr (.inl ⟨rfl, rfl, rfl⟩)
    | _ :: _ => cases h
  · match ops with
    | [] => cases h; exact .inr (.inr (.inl ⟨rfl, rfl, rfl⟩))
    | _ :: _ => cases h
  · match ops with
    | idx :: P => cases h; exact .inr (.inr (.inr (.inl ⟨idx, P, rfl, rfl, rfl⟩)))
    | [] => cases h
  · rw [Machine.decode_hostop_reserved ops ((four_le_toNat_iff opc).mpr reservedCode)] at h
    cases h
    exact .inr (.inr (.inr (.inr ⟨reservedCode, rfl⟩)))

/-- The reset input is high or low (30_encoding.md R71). -/
theorem resetLevel_cases : ∀ rst : BitVec 1, rst = 1#1 ∨ rst = 0#1 := by decide

theorem decode_ctrl_cases {rst : BitVec 1} {i : Instr} (h : decode (.ctrl rst) = .ok i) : rst = 1#1 ∧ i = .reset := by
  rcases resetLevel_cases rst with rfl | rfl <;> cases h
  exact ⟨rfl, rfl⟩

theorem decode_wire8_data {d : Byte} (notStart : d ≠ START) (notFinish : d ≠ FINISH) :
    decode (.wire8 d) = .ok (.dData d) := by
  simp only [decode, wireClass_data notStart notFinish]

theorem decode_stuff8_reserved {b : Byte} (h : reserved b = true) : decode (.stuff8 b) = .ok (.sReserved b) := by
  simp only [decode, stuffClass_reserved h]

theorem decode_stuff8_literal {b : Byte} (h : reserved b = false) : decode (.stuff8 b) = .ok (.sLiteral b) := by
  simp only [decode, stuffClass_literal h]

theorem decode_unstuff8_literal {b : Byte} (next : Option Byte) (h : b ≠ ESCAPE) :
    decode (.unstuff8 b next) = .ok (.uLiteral b) := by
  simp only [decode, unstuffClass_literal h]

/-- Settles O3: the table of codes and classes, read off the decoder. -/
theorem specWordsDecodeToTheirInstructions : Obligations.SpecWordsDecodeToTheirInstructions :=
  ⟨rfl, rfl, rfl, rfl, rfl, rfl, rfl, rfl, rfl, rfl, rfl, rfl, rfl⟩

/-! ### Decoder, encoder and table agree -/

/-- A byte is not reserved when it is none of the three values (30_encoding.md R62). -/
theorem reserved_eq_false {b : Byte} (notStart : b ≠ START) (notFinish : b ≠ FINISH) (notEscape : b ≠ ESCAPE) :
    reserved b = false :=
  Bool.eq_false_of_not_eq_true fun h =>
    ((reserved_iff b).mp h).elim notStart fun h => h.elim notFinish notEscape

theorem decode_encode {i : Instr} (h : i.wellFormed = true) : decode (encode i) = .ok i := by
  cases i with
  | reservedOpc opc => exact Machine.decode_hostop_reserved [] ((four_le_toNat_iff opc).mpr h)
  | dData d =>
    obtain ⟨notStart, notFinish⟩ := of_decide_eq_true h
    exact decode_wire8_data notStart notFinish
  | sReserved b => exact decode_stuff8_reserved ((reserved_iff b).mpr (of_decide_eq_true h))
  | sLiteral b =>
    obtain ⟨notStart, notFinish, notEscape⟩ := of_decide_eq_true h
    exact decode_stuff8_literal (reserved_eq_false notStart notFinish notEscape)
  | uLiteral b => exact decode_unstuff8_literal none (of_decide_eq_true h)
  | feedByte | available | take | encode | reset | dStart | dFinish | uEscape => rfl

/-- The word of a decoded instruction puts it in its class, and matches the one row of its mnemonic. -/
theorem wellFormed_and_rowMnemonics_of_decode {w : CommandWord} {i : Instr} (h : decode w = .ok i) :
    i.wellFormed = true ∧ w.rowMnemonics = [i.mnemonic] := by
  cases w with
  | hostop opc ops =>
    rw [rowMnemonics_hostop]
    rcases decode_hostop_cases h with
      ⟨d, rfl, -, rfl⟩ | ⟨rfl, -, rfl⟩ | ⟨rfl, -, rfl⟩ | ⟨idx, P, rfl, -, rfl⟩ | ⟨reservedCode, rfl⟩
    case inr.inr.inr.inr => exact ⟨reservedCode, rowMnemonics_reservedOpc opc reservedCode⟩
    all_goals exact ⟨rfl, by simp only [Instr.mnemonic]; decide⟩
  | ctrl rst =>
    obtain ⟨rfl, rfl⟩ := decode_ctrl_cases h
    exact ⟨rfl, by decide⟩
  | wire8 d =>
    rw [rowMnemonics_wire8]
    by_cases isStart : d = START
    · subst isStart; cases h; exact ⟨rfl, rfl⟩
    by_cases isFinish : d = FINISH
    · subst isFinish; cases h; exact ⟨rfl, rfl⟩
    rw [decode_wire8_data isStart isFinish] at h
    cases h
    exact ⟨decide_eq_true ⟨isStart, isFinish⟩, by rw [wireClass_data isStart isFinish]; rfl⟩
  | stuff8 b =>
    rw [rowMnemonics_stuff8]
    cases hb : reserved b with
    | true =>
      rw [decode_stuff8_reserved hb] at h
      cases h
      exact ⟨decide_eq_true ((reserved_iff b).mp hb), by rw [stuffClass_reserved hb]; rfl⟩
    | false =>
      rw [decode_stuff8_literal hb] at h
      cases h
      exact ⟨decide_eq_true (not_reserved hb), by rw [stuffClass_literal hb]; rfl⟩
  | unstuff8 b next =>
    rw [rowMnemonics_unstuff8]
    by_cases isEscape : b = ESCAPE
    · subst isEscape; cases h; exact ⟨rfl, rfl⟩
    · rw [decode_unstuff8_literal next isEscape] at h
      cases h
      exact ⟨decide_eq_true isEscape, by rw [unstuffClass_literal isEscape]; rfl⟩

theorem wellFormed_of_decode {w : CommandWord} {i : Instr} (h : decode w = .ok i) : i.wellFormed = true :=
  (wellFormed_and_rowMnemonics_of_decode h).1

theorem rowMnemonics_of_decode {w : CommandWord} {i : Instr} (h : decode w = .ok i) : w.rowMnemonics = [i.mnemonic] :=
  (wellFormed_and_rowMnemonics_of_decode h).2

/-- Settles O1: the rows of an encoded word are those of what it decodes to, which is the instruction encoded. -/
theorem decodeAndEncodeAgreeWithTheTable : Obligations.DecodeAndEncodeAgreeWithTheTable :=
  ⟨fun _ wf => ⟨decode_encode wf, rowMnemonics_of_decode (decode_encode wf)⟩, fun _ _ => wellFormed_and_rowMnemonics_of_decode⟩

end Sys2Proof
end

section
/-! FEED_BYTE (42_decoder.md): one equation per branch of the state machine, of CLOSE and of the label, and the byte classes as
FEED_BYTE of their byte. -/

namespace Sys2Proof.Machine

/-! ### FEED_BYTE and the classes of R66 as instructions -/

@[simp] theorem exec_feedByte (d : Byte) (s : State) : exec (.feedByte d) s = .next ((s.feedByte d).answer .nothing) := rfl

theorem exec_dStart (s : State) : exec .dStart s = exec (.feedByte START) s := rfl

theorem exec_dFinish (s : State) : exec .dFinish s = exec (.feedByte FINISH) s := rfl

theorem exec_dData {d : Byte} (notStart : d ≠ START) (notFinish : d ≠ FINISH) (s : State) :
    exec (.dData d) s = exec (.feedByte d) s := by
  simp only [exec, execDData, execFeedByte, State.feedByte, wireClass_data notStart notFinish]

/-- Settles O4: the three classes of the byte, each an instruction that is FEED_BYTE of it. -/
theorem wireByteRunsAsFeedByte : Obligations.WireByteRunsAsFeedByte := by
  intro d s i decoded
  by_cases isStart : d = START
  · subst isStart; cases decoded; exact exec_dStart s
  by_cases isFinish : d = FINISH
  · subst isFinish; cases decoded; exact exec_dFinish s
  rw [decode_wire8_data isStart isFinish] at decoded
  cases decoded
  exact exec_dData isStart isFinish s

/-! ### One equation per branch (42_decoder.md R100 to R106) -/

section Branches

variable {s : State} {d : Byte}

theorem feedByte_START_idle (idle : s.processing = false) : s.feedByte START = s.openFrame := by
  simp [State.feedByte, State.feedStart, idle]

theorem feedByte_START_inFrame (inFrame : s.processing = true) : s.feedByte START = s.restartFrame := by
  simp [State.feedByte, State.feedStart, inFrame]

/-- START gives the same state from IDLE and IN_FRAME, up to the flag it sets. -/
theorem feedByte_START (s : State) : s.feedByte START = { s with processing := true, buffer := [START] } := by
  cases h : s.processing with
  | false => exact feedByte_START_idle h
  | true => rw [feedByte_START_inFrame h, ← h]; rfl

theorem feedByte_idle (idle : s.processing = false) (notStart : d ≠ START) : s.feedByte d = s := by
  by_cases isFinish : d = FINISH
  · subst isFinish; simp [State.feedByte, State.feedFinish, idle]
  · simp [State.feedByte, State.feedData, wireClass_data notStart isFinish, idle]

theorem feedByte_FINISH (inFrame : s.processing = true) : s.feedByte FINISH = s.close := by
  simp [State.feedByte, State.feedFinish, inFrame]

theorem feedByte_append (inFrame : s.processing = true) (notStart : d ≠ START) (notFinish : d ≠ FINISH)
    (room : s.hasRoom = true) : s.feedByte d = s.bufAppend d := by
  simp [State.feedByte, State.feedData, wireClass_data notStart notFinish, inFrame, room]

theorem feedByte_overflow (inFrame : s.processing = true) (notStart : d ≠ START) (notFinish : d ≠ FINISH)
    (full : s.hasRoom = false) : s.feedByte d = s.toIdle := by
  simp [State.feedByte, State.feedData, wireClass_data notStart notFinish, inFrame, full]

end Branches

@[simp] theorem Limit.admits_unbounded (n : Nat) : Limit.unbounded.admits n = true := rfl

@[simp] theorem Limit.admits_finite (m n : Nat) : (Limit.finite m).admits n = decide (n ≤ m) := rfl

theorem hasRoom_of_below {s : State}
    (h : s.params.bufCap = .unbounded ∨ ∃ n, s.params.bufCap = .finite n ∧ s.buffer.length < n) : s.hasRoom = true := by
  rcases h with noBound | ⟨n, bound, below⟩
  · rw [State.hasRoom, noBound, Limit.admits_unbounded]
  · rw [State.hasRoom, bound, Limit.admits_finite]
    exact decide_eq_true below

theorem hasRoom_of_full {s : State} {n : Nat} (bound : s.params.bufCap = .finite n) (full : s.buffer.length = n) :
    s.hasRoom = false := by
  rw [State.hasRoom, bound, full, Limit.admits_finite]
  exact decide_eq_false (Nat.not_succ_le_self n)

/-- Settles O20: START in either mode, and D_START as FEED_BYTE of it. -/
theorem startByteOpensOrRestartsAFrame : Obligations.StartByteOpensOrRestartsAFrame := by
  refine fun s => ⟨fun idle => ?_, fun inFrame => ?_⟩
  · rw [exec_dStart, exec_feedByte, feedByte_START_idle idle]
    exact ⟨rfl, rfl⟩
  · rw [exec_dStart, exec_feedByte, feedByte_START_inFrame inFrame]
    exact ⟨rfl, rfl⟩

/-- Settles O21: the discarding branch, taken by FINISH and by every data byte. -/
theorem idleDiscardsEveryByteButStart : Obligations.IdleDiscardsEveryByteButStart := by
  intro s d idle notStart
  have discarded : ∀ b : Byte, b ≠ START → exec (.feedByte b) s = .next { s with result := .nothing } := fun b hb => by
    rw [exec_feedByte, feedByte_idle idle hb]; rfl
  exact ⟨discarded d notStart, (exec_dFinish s).trans (discarded FINISH START_ne_FINISH.symm),
    fun notFinish => (exec_dData notStart notFinish s).trans (discarded d notStart)⟩

/-- Settles O22: below the bound there is room. -/
theorem dataByteIsAppendedWhenThereIsRoom : Obligations.DataByteIsAppendedWhenThereIsRoom := by
  intro s d inFrame notStart notFinish below
  rw [exec_dData notStart notFinish, exec_feedByte, feedByte_append inFrame notStart notFinish (hasRoom_of_below below)]
  exact ⟨rfl, rfl⟩

/-- Settles O23: at the bound there is no room. -/
theorem fullBufferAbandonsTheFrame : Obligations.FullBufferAbandonsTheFrame := by
  intro s d n inFrame notStart notFinish bound full
  rw [exec_dData notStart notFinish, exec_feedByte, feedByte_overflow inFrame notStart notFinish (hasRoom_of_full bound full)]
  exact ⟨rfl, rfl⟩

/-- Settles O24: what a closure can do, on D_FINISH as FEED_BYTE of FINISH. -/
theorem finishByteAlwaysEndsInIdle : Obligations.FinishByteAlwaysEndsInIdle := by
  intro s inFrame
  refine ⟨s.close.answer .nothing, ?_, ?_, ?_⟩
  · rw [exec_feedByte, feedByte_FINISH inFrame]
  · rw [exec_dFinish, exec_feedByte, feedByte_FINISH inFrame]
  · rcases s.close_cases with dropped | ⟨i, P, -, stored⟩
    · rw [dropped]
      exact ⟨rfl, rfl, rfl, rfl, rfl, rfl, .inl ⟨rfl, rfl⟩⟩
    · rw [stored]
      exact ⟨rfl, rfl, rfl, rfl, rfl, rfl, .inr ⟨i :: P, List.cons_ne_nil i P, rfl, rfl⟩⟩

/-! ### CLOSE's decision and its effect (42_decoder.md R107 to R116) -/

section Closing

variable {B body u p : List Byte} {c : Byte} {s : State}

theorem closeFrame_of_no_crc (h : crcExtract B = none) : closeFrame B = .dropCrc := by
  simp only [closeFrame, h]

theorem closeFrame_of_mismatch (h : crcExtract B = some (c, body)) (mismatch : crc8 body ≠ c) : closeFrame B = .dropCrc := by
  simp only [closeFrame, h, if_neg mismatch]

theorem closeFrame_of_unstuff_fails (h : crcExtract B = some (c, body)) (ok : crc8 body = c) (fails : unstuff body = none) :
    closeFrame B = .dropEsc := by
  simp only [closeFrame, h, if_pos ok, closeBody, fails]

theorem closeFrame_of_no_index (h : crcExtract B = some (c, body)) (ok : crc8 body = c) (unstuffed : unstuff body = some u)
    (noIndex : u.drop 1 = []) : closeFrame B = .dropEmpty := by
  simp only [closeFrame, h, if_pos ok, closeBody, unstuffed, noIndex]

theorem closeFrame_of_packet (h : crcExtract B = some (c, body)) (ok : crc8 body = c) (unstuffed : unstuff body = some u)
    (packet : u.drop 1 ≠ []) : closeFrame B = .accept (u.drop 1) := by
  obtain ⟨i, P, hu⟩ := List.exists_cons_of_ne_nil packet
  simp only [closeFrame, h, if_pos ok, closeBody, unstuffed, hu]

/-- CLOSE's checks in their order: the CRC, then the escapes, then the Index. -/
theorem closeFrame_cases (B : List Byte) :
    (closeFrame B = .dropCrc ∧ ∀ c body, crcExtract B = some (c, body) → crc8 body ≠ c)
    ∨ ∃ c body, crcExtract B = some (c, body) ∧ crc8 body = c ∧
        ((closeFrame B = .dropEsc ∧ unstuff body = none)
        ∨ ∃ u, unstuff body = some u ∧
            ((closeFrame B = .dropEmpty ∧ u.drop 1 = []) ∨ (closeFrame B = .accept (u.drop 1) ∧ u.drop 1 ≠ []))) := by
  cases extracted : crcExtract B with
  | none => exact .inl ⟨closeFrame_of_no_crc extracted, fun _ _ found => nomatch found⟩
  | some field =>
    obtain ⟨c, body⟩ := field
    by_cases ok : crc8 body = c
    · refine .inr ⟨c, body, rfl, ok, ?_⟩
      cases unstuffed : unstuff body with
      | none => exact .inl ⟨closeFrame_of_unstuff_fails extracted ok unstuffed, rfl⟩
      | some u =>
        refine .inr ⟨u, rfl, ?_⟩
        by_cases noIndex : u.drop 1 = []
        · exact .inl ⟨closeFrame_of_no_index extracted ok unstuffed noIndex, noIndex⟩
        · exact .inr ⟨closeFrame_of_packet extracted ok unstuffed noIndex, noIndex⟩
    · refine .inl ⟨closeFrame_of_mismatch extracted ok, fun _ _ found => ?_⟩
      cases found
      exact ok

theorem close_of_dropCrc (h : closeFrame s.buffer = .dropCrc) : s.close = s.toIdle := by simp only [State.close, h]

theorem close_of_dropEsc (h : closeFrame s.buffer = .dropEsc) : s.close = s.toIdle := by simp only [State.close, h]

theorem close_of_dropEmpty (h : closeFrame s.buffer = .dropEmpty) : s.close = s.toIdle := by simp only [State.close, h]

theorem close_of_accept (h : closeFrame s.buffer = .accept p) : s.close = s.toIdle.hold p := by simp only [State.close, h]

/-- FINISH as an operation of the host, on an open frame. -/
theorem exec_feedByte_FINISH (inFrame : s.processing = true) :
    exec (.feedByte FINISH) s = .next (s.close.answer .nothing) := by
  rw [exec_feedByte, feedByte_FINISH inFrame]

end Closing

/-- Both forms of the CRC field are read back (42_decoder.md R108). -/
theorem crcExtract_field {B body : List Byte} {c : Byte}
    (h : B = body ++ [ESCAPE, c ^^^ ESC_MASK] ∨ (B = body ++ [c] ∧ body.getLast? ≠ some ESCAPE)) :
    crcExtract B = some (c, body) := by
  rcases h with rfl | ⟨rfl, notEscape⟩
  · rw [crcExtract_escaped, xor_mask_mask]
  · exact crcExtract_plain c notEscape

/-- Settles O27: the field is read back, then each outcome of CLOSE's checks has its effect. -/
theorem closureStoresExactlyTheGoodPackets : Obligations.ClosureStoresExactlyTheGoodPackets := by
  intro s body c inFrame field
  have extracted := crcExtract_field field
  rw [exec_feedByte_FINISH inFrame]
  refine ⟨fun mismatch => ?_, fun ok fails => ?_, fun u ok unstuffed => ?_, fun u i P ok unstuffed => ?_⟩
  · rw [close_of_dropCrc (closeFrame_of_mismatch extracted mismatch)]; rfl
  · rw [close_of_dropEsc (closeFrame_of_unstuff_fails extracted ok fails)]; rfl
  · rw [close_of_dropEmpty (closeFrame_of_no_index extracted ok unstuffed rfl)]; rfl
  · rw [close_of_accept (closeFrame_of_packet extracted ok unstuffed (List.cons_ne_nil i P))]; rfl

/-! ### The label (42_decoder.md R120) -/

section Labels

variable {s : State} {d : Byte}

theorem feedLabel_START_idle (idle : s.processing = false) : s.feedLabel START = .openFrame := by
  simp [State.feedLabel, idle]

theorem feedLabel_idle (idle : s.processing = false) (notStart : d ≠ START) : s.feedLabel d = .ignore := by
  simp [State.feedLabel, idle, notStart]

theorem feedLabel_START_inFrame (inFrame : s.processing = true) : s.feedLabel START = .restart := by
  simp [State.feedLabel, inFrame]

theorem feedLabel_FINISH (inFrame : s.processing = true) : s.feedLabel FINISH = (closeFrame s.buffer).label := by
  simp [State.feedLabel, inFrame]

theorem feedLabel_data (inFrame : s.processing = true) (notStart : d ≠ START) (notFinish : d ≠ FINISH) :
    s.feedLabel d = if s.hasRoom then .append else .overflow := by
  simp [State.feedLabel, wireClass_data notStart notFinish, inFrame]

end Labels

/-- Settles O26: START alone in the buffer is the CRC field of an empty body, whose CRC it is not. -/
theorem finishAfterStartIsDropped : Obligations.FinishAfterStartIsDropped := by
  intro s inFrame onlyStart
  have dropped : closeFrame s.buffer = .dropCrc := by
    rw [onlyStart]
    exact closeFrame_of_mismatch (crcExtract_plain (body := []) START (by decide)) (by decide)
  rw [feedLabel_FINISH inFrame, exec_feedByte_FINISH inFrame, close_of_dropCrc dropped, dropped]
  exact ⟨rfl, rfl⟩

/-- Settles O28: in IDLE the byte decides; IN_FRAME its class, then for a data byte the room and for FINISH the checks of CLOSE in
their order. -/
theorem labelNamesTheStateChange : Obligations.LabelNamesTheStateChange := by
  intro s d
  rcases Bool.eq_false_or_eq_true s.processing with mode | mode
  case inr =>
    by_cases isStart : d = START
    · subst isStart
      rw [feedLabel_START_idle mode]
      exact ⟨mode, rfl, feedByte_START_idle mode⟩
    · rw [feedLabel_idle mode isStart]
      exact ⟨mode, isStart, feedByte_idle mode isStart⟩
  case inl =>
    by_cases isStart : d = START
    · subst isStart
      rw [feedLabel_START_inFrame mode]
      exact ⟨mode, rfl, feedByte_START_inFrame mode⟩
    by_cases isFinish : d = FINISH
    · subst isFinish
      rw [feedLabel_FINISH mode, feedByte_FINISH mode]
      rcases closeFrame_cases s.buffer with ⟨closed, mismatch⟩ | ⟨c, body, extracted, ok, outcome⟩
      · rw [closed]
        exact ⟨mode, rfl, close_of_dropCrc closed, mismatch⟩
      rcases outcome with ⟨closed, fails⟩ | ⟨u, unstuffed, ⟨closed, noIndex⟩ | ⟨closed, packet⟩⟩ <;> rw [closed]
      · exact ⟨mode, rfl, close_of_dropEsc closed, c, body, extracted, ok, fails⟩
      · exact ⟨mode, rfl, close_of_dropEmpty closed, c, body, u, extracted, ok, unstuffed, noIndex⟩
      · exact ⟨mode, rfl, c, body, u, extracted, ok, unstuffed, packet, close_of_accept closed⟩
    · rw [feedLabel_data mode isStart isFinish]
      cases room : s.hasRoom with
      | true => exact ⟨mode, isStart, isFinish, room, feedByte_append mode isStart isFinish room⟩
      | false => exact ⟨mode, isStart, isFinish, room, feedByte_overflow mode isStart isFinish room⟩

end Sys2Proof.Machine
end

section
/-! The meanings of the other instructions as equations, what every instruction leaves unchanged, and the refusals. -/

namespace Sys2Proof.Machine

/-! ### TAKE, ENCODE, RESET and the rows of the two stuffing units -/

section Equations

variable {s : State} {p P : List Byte} {i : Byte}

theorem exec_take_some (held : s.heldPacket = some p) : exec .take s = .next (s.release.answer (.taken .ok p)) := by
  simp only [exec, execTake, held]

theorem exec_take_none (notHeld : s.heldPacket = none) : exec .take s = .next (s.answer (.taken .notReady [])) := by
  simp only [exec, execTake, notHeld]

theorem heldPacket_of_available (held : s.available = true) : s.heldPacket = s.lastPacket := if_pos held

theorem heldPacket_of_not_available (notHeld : s.available = false) : s.heldPacket = none :=
  if_neg (Bool.not_eq_true _ ▸ notHeld)

theorem exec_encode_fits (fits : s.payloadFits P = true) :
    exec (.encode i P) s = .next (s.answer (.frame (frameOf P i))) := by
  simp only [exec, execEncode, fits, if_true]

/-- What a completing TAKE answers. -/
theorem next_of_exec_take {t : State} (completes : exec .take s = .next t) :
    (∃ p, t = s.release.answer (.taken .ok p)) ∨ t = s.answer (.taken .notReady []) := by
  rcases execTake_cases s with ⟨p, -, -, e⟩ | ⟨-, e⟩ <;> cases e.symm.trans completes
  · exact .inl ⟨p, rfl⟩
  · exact .inr rfl

theorem exec_encode_too_long (long : s.payloadFits P = false) : exec (.encode i P) s = .refused .payloadTooLong := by
  simp only [exec, execEncode, long, Bool.false_eq_true, if_false]

end Equations

@[simp] theorem exec_reset (s : State) : exec .reset s = .next (s.resetSession.answer .nothing) := rfl

@[simp] theorem exec_sReserved (b : Byte) (s : State) :
    exec (.sReserved b) s = .next (s.emit (.bytes [ESCAPE, b ^^^ ESC_MASK])) := rfl

@[simp] theorem exec_sLiteral (b : Byte) (s : State) : exec (.sLiteral b) s = .next (s.emit (.bytes [b])) := rfl

@[simp] theorem exec_uEscape_some (x : Byte) (s : State) :
    exec (.uEscape (some x)) s = .next (s.emit (.bytes [x ^^^ ESC_MASK])) := rfl

@[simp] theorem exec_uEscape_none (s : State) : exec (.uEscape none) s = .next (s.emit .fail) := rfl

@[simp] theorem exec_uLiteral (b : Byte) (s : State) : exec (.uLiteral b) s = .next (s.emit (.bytes [b])) := rfl

/-- What a completing ENCODE answers. -/
theorem next_of_exec_encode {i : Byte} {P : List Byte} {s t : State} (completes : exec (.encode i P) s = .next t) :
    s.payloadFits P = true ∧ t = s.answer (.frame (frameOf P i)) := by
  rcases execEncode_cases i P s with ⟨fits, e⟩ | ⟨-, e⟩ <;> cases e.symm.trans completes
  exact ⟨fits, rfl⟩

/-- Settles O14: the emission of either row is STUFF1 of a byte of its class. -/
theorem stuffRowsEmitStuffOne : Obligations.StuffRowsEmitStuffOne := by
  refine fun b s => ⟨fun isReserved => ⟨exec_sReserved b s, ?_⟩, fun notReserved => ⟨exec_sLiteral b s, ?_⟩⟩
  · exact stuff1_reserved ((reserved_iff b).mpr isReserved)
  · obtain ⟨notStart, notFinish, notEscape⟩ := notReserved
    exact stuff1_literal (reserved_eq_false notStart notFinish notEscape)

/-- Settles O15: the equations of the unstuffing rows. -/
theorem unstuffRowsEmitTheirByte : Obligations.UnstuffRowsEmitTheirByte := fun b x s =>
  ⟨exec_uEscape_some x s, exec_uEscape_none s, fun _ => exec_uLiteral b s⟩

/-- Settles O16: PAYLOAD_MAX admits the payload, or it is finite and shorter. -/
theorem encodeReturnsTheFrame : Obligations.EncodeReturnsTheFrame := by
  refine fun s i P => ⟨fun within => ?_, fun ⟨n, bound, long⟩ => ?_⟩
  · have fits : s.payloadFits P = true := by
      rcases within with noBound | ⟨n, bound, within⟩
      · rw [State.payloadFits, noBound, Limit.admits_unbounded]
      · rw [State.payloadFits, bound, Limit.admits_finite]
        exact decide_eq_true within
    rw [exec_encode_fits fits]
    simp [State.answer, frameOf, frameBody]
  · refine exec_encode_too_long ?_
    rw [State.payloadFits, bound, Limit.admits_finite]
    exact decide_eq_false (Nat.not_le.mpr long)

/-- Settles O30: the slot is empty after the first TAKE, so the second one finds none held. -/
theorem takeReturnsThePacketOnce : Obligations.TakeReturnsThePacketOnce := fun _ =>
  ⟨fun _ held packet => ⟨_, exec_take_some ((heldPacket_of_available held).trans packet), rfl,
      exec_take_none (heldPacket_of_not_available rfl)⟩,
    fun notHeld => exec_take_none (heldPacket_of_not_available notHeld)⟩

/-- Settles O31: the two status codes, and TAKE with none held. -/
theorem takeWithoutPacketIsNotReady : Obligations.TakeWithoutPacketIsNotReady :=
  ⟨rfl, rfl, fun _ notHeld => exec_take_none (heldPacket_of_not_available notHeld)⟩

/-- Settles O32: the equation of RESET. -/
theorem resetClearsTheSession : Obligations.ResetClearsTheSession := exec_reset

/-- Settles O33: the fields of the reset state. -/
theorem resetStateValues : Obligations.ResetStateValues := ⟨rfl, rfl, rfl, rfl, rfl⟩

/-! ### What every instruction leaves unchanged, and which are refused -/

/-- What D_DATA leaves alone, whatever its byte: the term with START or FINISH, which no word decodes to, is no exception. -/
theorem feedData_frame (s : State) (d : Byte) :
    (s.feedData d).params = s.params ∧ (s.feedData d).pending = s.pending := by
  unfold State.feedData
  split
  · split <;> exact ⟨rfl, rfl⟩
  · exact ⟨rfl, rfl⟩

/-- Settles O35, one instruction at a time: FEED_BYTE and its classes by what they frame, the others by their equations. -/
theorem fieldsHaveTheirWritersOnly : Obligations.FieldsHaveTheirWritersOnly := by
  intro i s t completes
  cases i with
  | feedByte d =>
    cases completes
    obtain ⟨params, pending, -, -⟩ := s.feedByte_frame d
    exact ⟨params, pending, fun notFeed => absurd rfl (notFeed d)⟩
  | dStart =>
    cases completes
    obtain ⟨params, pending, -, -⟩ := s.feedByte_frame START
    exact ⟨params, pending, fun _ notStart => absurd rfl notStart⟩
  | dFinish =>
    cases completes
    obtain ⟨params, pending, -, -⟩ := s.feedByte_frame FINISH
    exact ⟨params, pending, fun _ _ notFinish => absurd rfl notFinish⟩
  | dData d =>
    cases completes
    obtain ⟨params, pending⟩ := feedData_frame s d
    exact ⟨params, pending, fun _ _ _ notData => absurd rfl (notData d)⟩
  | reset =>
    cases completes
    exact ⟨rfl, rfl, fun _ _ _ _ notReset => absurd rfl notReset⟩
  | take =>
    rcases next_of_exec_take completes with ⟨p, rfl⟩ | rfl
    · exact ⟨rfl, rfl, fun _ _ _ _ _ => ⟨rfl, rfl, fun notTake => absurd rfl notTake⟩⟩
    · exact ⟨rfl, rfl, fun _ _ _ _ _ => ⟨rfl, rfl, fun _ => ⟨rfl, rfl⟩⟩⟩
  | encode idx P =>
    obtain ⟨-, rfl⟩ := next_of_exec_encode completes
    exact ⟨rfl, rfl, fun _ _ _ _ _ => ⟨rfl, rfl, fun _ => ⟨rfl, rfl⟩⟩⟩
  | reservedOpc opc => cases completes
  | uEscape x =>
    cases x <;> cases completes <;> exact ⟨rfl, rfl, fun _ _ _ _ _ => ⟨rfl, rfl, fun _ => ⟨rfl, rfl⟩⟩⟩
  | available | sReserved | sLiteral | uLiteral =>
    cases completes
    exact ⟨rfl, rfl, fun _ _ _ _ _ => ⟨rfl, rfl, fun _ => ⟨rfl, rfl⟩⟩⟩

/-- Settles O36: TAKE and ENCODE have two answers each, every other instruction one. -/
theorem onlyReservedCodesAndLongPayloadsAreRefused : Obligations.OnlyReservedCodesAndLongPayloadsAreRefused := by
  intro i s
  cases i with
  | reservedOpc opc => exact .inr (.inl ⟨opc, rfl, exec_reservedOpc opc s⟩)
  | encode idx P =>
    rcases execEncode_cases idx P s with ⟨-, e⟩ | ⟨long, e⟩
    · exact .inl ⟨_, e⟩
    · exact .inr (.inr ⟨idx, P, rfl, long, e⟩)
  | take => rcases execTake_cases s with ⟨p, -, -, e⟩ | ⟨-, e⟩ <;> exact .inl ⟨_, e⟩
  | uEscape x => cases x <;> exact .inl ⟨_, rfl⟩
  | feedByte | available | reset | dStart | dFinish | dData | sReserved | sLiteral | uLiteral => exact .inl ⟨_, rfl⟩

/-- Settles O37: AVAILABLE and TAKE read the flag and the slot only, ENCODE the limit only. -/
theorem resultsDoNotShowTheOpenFrame : Obligations.ResultsDoNotShowTheOpenFrame := by
  rintro s proc buf i t (rfl | rfl | ⟨idx, P, rfl⟩) completes
  · cases completes
    exact ⟨_, rfl, rfl⟩
  · cases held : s.heldPacket with
    | some p =>
      rw [exec_take_some held] at completes
      cases completes
      exact ⟨_, exec_take_some held, rfl⟩
    | none =>
      rw [exec_take_none held] at completes
      cases completes
      exact ⟨_, exec_take_none held, rfl⟩
  · obtain ⟨fits, rfl⟩ := next_of_exec_encode completes
    exact ⟨_, exec_encode_fits fits, rfl⟩

end Sys2Proof.Machine
end

section
/-! The step (20_memory.md R46 to R48): which arrival it takes and what it then does, the host's operations (30_encoding.md R70), and the
invariants of 10_state.md R25 to R27. -/

namespace Sys2Proof.Machine

/-! ### What a step takes -/

section Arrivals

variable {s : State} {rest : List Arrival}

theorem step_idle (nothing : s.pending = []) : step s = .next s := by
  simp only [step, fetch, nothing]

theorem step_overlap {w₁ w₂ : HostWord} (oldest : s.pending = .overlap w₁ w₂ :: rest) : step s = .refused .overlap := by
  simp only [step, fetch, oldest, Arrival.word_overlap]

theorem step_reset_low (oldest : s.pending = .op (.ctrl 0#1) :: rest) : step s = .next { s with pending := rest } := by
  have low : decode (.ctrl 0#1) = .error .resetNotAsserted := rfl
  simp only [step, fetch, oldest, Arrival.word_op, hostWord_ctrl, low]

theorem step_undecodable {w : HostWord} {e : DecodeError} (oldest : s.pending = .op w :: rest)
    (unread : decode w.word = .error e) (notLow : e ≠ .resetNotAsserted) : step s = .refused (.undecodable e) := by
  simp only [step, fetch, oldest, Arrival.word_op, unread]

end Arrivals

/-- Settles O38: an arrival with one word runs what the word decodes to. -/
theorem stepRunsTheDecodedInstruction : Obligations.StepRunsTheDecodedInstruction := by
  refine fun s rest => ⟨fun w i oldest decoded => step_word oldest (Arrival.word_op w) decoded, fun u oldest => ?_⟩
  obtain ⟨i, decoded, -⟩ := decode_unitWord u
  exact ⟨i, decoded, step_word oldest (Arrival.word_atUnit u) decoded⟩

/-- The operand bytes that do not fit an operation code (log 11), with the reason the decoder gives. -/
theorem decode_hostop_misfit {opc : BitVec 3} {ops : List Byte}
    (misfit : (opc = 0b000#3 ∧ ops.length ≠ 1) ∨ ((opc = 0b001#3 ∨ opc = 0b010#3) ∧ ops ≠ []) ∨ (opc = 0b011#3 ∧ ops = [])) :
    decode (.hostop opc ops) = .error (if ops = [] then .missingOperand else .unexpectedOperand) := by
  rcases misfit with ⟨rfl, notOne⟩ | ⟨rfl | rfl, given⟩ | ⟨rfl, rfl⟩
  · match ops with
    | [] => rfl
    | [_] => exact absurd rfl notOne
    | _ :: _ :: _ => rfl
  · obtain ⟨b, ops, rfl⟩ := List.exists_cons_of_ne_nil given; rfl
  · obtain ⟨b, ops, rfl⟩ := List.exists_cons_of_ne_nil given; rfl
  · rfl

/-- Settles O40: the branches of a step that run no instruction. -/
theorem stepWithoutAnInstruction : Obligations.StepWithoutAnInstruction := by
  refine fun s rest => ⟨step_idle, fun _ _ => step_overlap, step_reset_low, fun _ _ => step_undecodable,
    fun opc ops oldest misfit => step_undecodable oldest (decode_hostop_misfit misfit) ?_⟩
  split <;> decide

/-- Settles O41: the placed word is the oldest arrival, and taking it off gives the state back. -/
theorem placedTableWordRunsNext : Obligations.PlacedTableWordRunsNext := by
  intro s nbits w i decoded
  have reads : decode (tableWord nbits w) = .ok i := by
    cases h : decode (tableWord nbits w) <;> simp [decodeTableWord, h, Except.toOption] at decoded
    rw [decoded]
  exact step_word (s := s.withFetchWord nbits w) rfl (Arrival.word_ofWord _) reads

/-! ### The host's operations -/

theorem isHostOperation_iff (i : Instr) : i.isHostOperation = true ↔
    (∃ idx P, i = .encode idx P) ∨ (∃ d, i = .feedByte d) ∨ i = .available ∨ i = .take ∨ i = .reset := by
  cases i <;> simp [Instr.isHostOperation]

/-- A host operation is one of the terms that stand for an instruction, so its word decodes to it. -/
theorem wellFormed_of_isHostOperation {i : Instr} (h : i.isHostOperation = true) : i.wellFormed = true := by
  rcases (isHostOperation_iff i).mp h with ⟨idx, P, rfl⟩ | ⟨d, rfl⟩ | rfl | rfl | rfl <;> rfl

/-- The word of a host operation is the host's (30_encoding.md R71). -/
theorem hostWord_of_isHostOperation {i : Instr} (h : i.isHostOperation = true) : ∃ w : HostWord, w.word = encode i := by
  rcases (isHostOperation_iff i).mp h with ⟨idx, P, rfl⟩ | ⟨d, rfl⟩ | rfl | rfl | rfl
  case inr.inr.inr.inr => exact ⟨.ctrl 1#1, rfl⟩
  all_goals exact ⟨.hostop _ _, rfl⟩

/-- The emission is written by the rows of the two stuffing units, which are none of the host's (30_encoding.md R67, R70). -/
theorem emitted_of_isHostOperation {i : Instr} {s t : State} (h : i.isHostOperation = true) (completes : exec i s = .next t) :
    t.emitted = s.emitted := by
  rcases (isHostOperation_iff i).mp h with ⟨idx, P, rfl⟩ | ⟨d, rfl⟩ | rfl | rfl | rfl
  · obtain ⟨-, rfl⟩ := next_of_exec_encode completes
    rfl
  · cases completes
    obtain ⟨-, -, -, emitted⟩ := s.feedByte_frame d
    exact emitted
  · cases completes; rfl
  · rcases next_of_exec_take completes with ⟨p, rfl⟩ | rfl <;> rfl
  · cases completes; rfl

/-- An arrival of the host's that is one word is an operation. -/
theorem op_of_fromHost {a : Arrival} {w : CommandWord} (host : a.fromHost = true) (word : a.word = some w) :
    ∃ v : HostWord, a = .op v ∧ v.word = w := by
  cases a with
  | op v => exact ⟨v, rfl, Option.some.inj word⟩
  | overlap _ _ => cases word
  | atUnit _ => cases host

/-- `rst = 0` is the only word that asks for nothing (log 12). -/
theorem eq_reset_low_of_decode {v : HostWord} (low : decode v.word = .error .resetNotAsserted) : v = .ctrl 0#1 := by
  cases v with
  | ctrl rst =>
    rcases resetLevel_cases rst with rfl | rfl
    · cases low
    · rfl
  | hostop opc ops =>
    simp only [hostWord_hostop, decode, decodeHostop] at low
    repeat' split at low
    all_goals cases low

/-- A completing step where only the host has anything pending: nothing, a low reset input taken off, or a host operation. -/
theorem step_cases_of_hostOnly {s t : State} (host : s.HostOnly) (completes : step s = .next t) :
    (s.pending = [] ∧ t = s) ∨ (∃ rest, s.pending = .op (.ctrl 0#1) :: rest ∧ t = { s with pending := rest })
      ∨ ∃ w rest i, s.pending = .op w :: rest ∧ decode w.word = .ok i ∧ i.isHostOperation = true
          ∧ exec i { s with pending := rest } = .next t := by
  rcases step_cases completes with idle | ⟨a, rest, w, oldest, word, low, rfl⟩ | ⟨a, rest, w, i, oldest, word, decoded, ran⟩
  · exact .inl idle
  · obtain ⟨v, rfl, rfl⟩ := op_of_fromHost (host a (oldest ▸ List.mem_cons_self)) word
    obtain rfl := eq_reset_low_of_decode low
    exact .inr (.inl ⟨rest, oldest, rfl⟩)
  · obtain ⟨v, rfl, rfl⟩ := op_of_fromHost (host a (oldest ▸ List.mem_cons_self)) word
    rcases decode_hostWord decoded with operation | ⟨opc, rfl⟩
    · exact .inr (.inr ⟨v, rest, i, oldest, decoded, operation, ran⟩)
    · cases ran

/-- Settles O39: the operations and their words, and what a host-only step can be. -/
theorem hostHasExactlyFourOperationsAndReset : Obligations.HostHasExactlyFourOperationsAndReset := by
  refine ⟨isHostOperation_iff, fun _ _ => decode_hostWord, fun i operation => ?_, fun u i decoded => ?_,
    fun s t host completes => ?_⟩
  · obtain ⟨w, word⟩ := hostWord_of_isHostOperation operation
    exact ⟨w, word ▸ decode_encode (wellFormed_of_isHostOperation operation)⟩
  · obtain ⟨j, decoded', notHost⟩ := decode_unitWord u
    cases decoded.symm.trans decoded'
    exact notHost
  · have ways := step_cases_of_hostOnly host completes
    suffices kept : t.HostOnly ∧ t.emitted = s.emitted from ⟨kept.1, kept.2, ways⟩
    rcases ways with ⟨-, rfl⟩ | ⟨rest, oldest, rfl⟩ | ⟨w, rest, i, oldest, -, operation, ran⟩
    · exact ⟨host, rfl⟩
    · exact ⟨fun a later => host a (oldest ▸ List.mem_cons_of_mem _ later), rfl⟩
    · obtain ⟨-, pending, -⟩ := fieldsHaveTheirWritersOnly i _ t ran
      refine ⟨fun a later => host a (oldest ▸ List.mem_cons_of_mem _ ?_),
        emitted_of_isHostOperation (s := { s with pending := rest }) operation ran⟩
      rwa [pending] at later

/-! ### The invariants -/

theorem Limit.admits_of_le {l : Limit} {m n : Nat} (le : m ≤ n) (h : l.admits n = true) : l.admits m = true := by
  cases l with
  | finite k => exact decide_eq_true (le.trans (of_decide_eq_true h))
  | unbounded => rfl

section Invariants

variable {s : State}

theorem inv_startFrame (inv : s.Inv) : State.Inv { s with processing := true, buffer := [START] } := by
  obtain ⟨wf, -, packet, -⟩ := inv
  exact ⟨wf, fun _ => rfl, packet, wf, by simp, fun idle => by cases idle⟩

theorem inv_toIdle (inv : s.Inv) : s.toIdle.Inv := by
  obtain ⟨wf, -, packet, -⟩ := inv
  exact ⟨wf, fun inFrame => (by cases inFrame), packet, Limit.admits_of_le (Nat.zero_le 1) wf, by simp, fun _ => rfl⟩

theorem inv_hold (i : Byte) (P : List Byte) (inv : s.Inv) : (s.hold (i :: P)).Inv := by
  obtain ⟨wf, frame, -, buffer⟩ := inv
  exact ⟨wf, frame, ⟨rfl, by simp⟩, buffer⟩

theorem inv_release (inv : s.Inv) : s.release.Inv := by
  obtain ⟨wf, frame, -, buffer⟩ := inv
  exact ⟨wf, frame, ⟨rfl, by simp⟩, buffer⟩

/-- A frame's buffer is not empty, so an appended byte comes after position 0. -/
theorem inv_bufAppend {d : Byte} (inv : s.Inv) (inFrame : s.processing = true) (notStart : d ≠ START) (notFinish : d ≠ FINISH)
    (room : s.hasRoom = true) : (s.bufAppend d).Inv := by
  obtain ⟨wf, frame, packet, -, noDelimiter, -⟩ := inv
  obtain ⟨tail, begins⟩ := List.head?_eq_some_iff.mp (frame inFrame)
  refine ⟨wf, fun _ => ?_, packet, ?_, fun b later => ?_, fun idle => ?_⟩
  · rw [State.bufAppend_buffer, begins]; rfl
  · rw [State.bufAppend_buffer, List.length_append]
    exact room
  · rw [State.bufAppend_buffer, begins, List.cons_append, List.tail_cons, List.mem_append, List.mem_singleton] at later
    rcases later with old | rfl
    · exact noDelimiter b (begins ▸ old)
    · exact ⟨notStart, notFinish⟩
  · exact absurd (inFrame.symm.trans idle) (by decide)

theorem inv_feedByte (d : Byte) (inv : s.Inv) : (s.feedByte d).Inv := by
  rcases s.feedByte_cases d with
    ⟨-, -, e⟩ | ⟨-, -, e⟩ | ⟨-, rfl, -⟩ | ⟨-, -, e⟩ | ⟨inFrame, notStart, notFinish, room, e⟩ | ⟨-, -, -, -, e⟩
  · rw [e]; exact inv_startFrame inv
  · rwa [e]
  · rw [feedByte_START]; exact inv_startFrame inv
  · rw [e]
    rcases s.close_cases with dropped | ⟨i, P, -, stored⟩
    · rw [dropped]; exact inv_toIdle inv
    · rw [stored]; exact inv_hold i P (inv_toIdle inv)
  · rw [e]; exact inv_bufAppend inv inFrame notStart notFinish room
  · rw [e]; exact inv_toIdle inv

/-- Every instruction that a word can decode to keeps the invariants. -/
theorem inv_exec {i : Instr} {t : State} (wf : i.wellFormed = true) (inv : s.Inv) (completes : exec i s = .next t) : t.Inv := by
  cases i with
  | feedByte d => cases completes; exact inv_feedByte d inv
  | dStart => cases completes; exact inv_feedByte START inv
  | dFinish => cases completes; exact inv_feedByte FINISH inv
  | dData d =>
    obtain ⟨notStart, notFinish⟩ := of_decide_eq_true wf
    rw [exec_dData notStart notFinish] at completes
    cases completes
    exact inv_feedByte d inv
  | take =>
    rcases next_of_exec_take completes with ⟨p, rfl⟩ | rfl
    · exact inv_release (s := s) inv
    · exact inv
  | encode idx P =>
    obtain ⟨-, rfl⟩ := next_of_exec_encode completes
    exact inv
  | reset => cases completes; exact inv_release (s := s.toIdle) (inv_toIdle inv)
  | reservedOpc opc => cases completes
  | uEscape x => cases x <;> cases completes <;> exact inv
  | available | sReserved | sLiteral | uLiteral => cases completes; exact inv

end Invariants

/-- Settles O42: no frame and no packet at reset, and no bound. -/
theorem resetMeetsTheInvariants : Obligations.ResetMeetsTheInvariants :=
  ⟨rfl, fun inFrame => (by cases inFrame), ⟨rfl, by decide⟩, rfl, by decide, fun _ => rfl⟩

/-- Settles O43: taking an arrival off writes no field the invariants read, and a word decodes to well-formed instructions only. -/
theorem stepKeepsTheInvariants : Obligations.StepKeepsTheInvariants := by
  intro s t inv completes
  rcases step_cases completes with ⟨-, rfl⟩ | ⟨a, rest, w, -, -, -, rfl⟩ | ⟨a, rest, w, i, -, -, decoded, ran⟩
  · exact inv
  · exact inv
  · exact inv_exec (s := { s with pending := rest }) (wellFormed_of_decode decoded) inv ran

end Sys2Proof.Machine
end

section
/-! The laws of CRC8 (40_checksum.md R84 to R86): the fold is linear, and a CRC_STEP loses nothing of the accumulator, so no later byte
hides a changed one. -/

namespace Sys2Proof.Machine

/-- CRC_STEP reads the accumulator and the byte through their XOR only. -/
theorem crcStep_comm (acc b : Byte) : crcStep acc b = crcStep b acc := by
  rw [crcStep, crcStep, BitVec.xor_comm]

theorem crcStep_zero_left (b : Byte) : crcStep 0#8 b = crcShifts 8 b := by
  rw [crcStep, BitVec.zero_xor]

/-- Settles O8: a fold over an append, a step of zero on zero, and a step from zero. -/
theorem crcIncrementalAndZeroLaws : Obligations.CrcIncrementalAndZeroLaws := by
  refine ⟨fun s t => List.foldl_append, fun s => ?_, fun acc b => (crcStep_zero_left (acc ^^^ b)).symm⟩
  have zeroStep : crcStep CRC_INIT 0#8 = CRC_INIT := by decide
  rw [crc8, List.foldl_cons, zeroStep, crc8]

theorem foldl_crcStep_xor (s : List Byte) : ∀ (t : List Byte) (a b : Byte), s.length = t.length →
    (List.zipWith (· ^^^ ·) s t).foldl crcStep (a ^^^ b) = s.foldl crcStep a ^^^ t.foldl crcStep b := by
  induction s with
  | nil =>
    intro t a b sameLength
    rw [List.length_eq_zero_iff.mp sameLength.symm]
    rfl
  | cons x s ih =>
    intro t a b sameLength
    match t with
    | [] => cases sameLength
    | y :: t =>
      rw [List.zipWith_cons_cons, List.foldl_cons, crcStep_xor, ih t _ _ (Nat.succ.inj sameLength)]
      rfl

/-- Settles O7: linearity of the fold, from 0 = 0 XOR 0. -/
theorem crcIsLinear : Obligations.CrcIsLinear := fun s t sameLength => foldl_crcStep_xor s t CRC_INIT CRC_INIT sameLength

/-- The XOR of two steps on one byte is the step of zero on the XOR of the accumulators, which is zero for zero only. -/
theorem crcStep_left_injective {a a' : Byte} (b : Byte) (same : crcStep a b = crcStep a' b) : a = a' := by
  by_contra differ
  refine crcStep_ne_zero (a ^^^ a') (fun zero => differ (BitVec.xor_eq_zero_iff.mp zero)) ?_
  rw [← BitVec.xor_self (x := b), crcStep_xor, same, BitVec.xor_self, BitVec.xor_self]

theorem foldl_crcStep_injective (t : List Byte) : ∀ {a a' : Byte}, t.foldl crcStep a = t.foldl crcStep a' → a = a' := by
  induction t with
  | nil => exact id
  | cons b t ih => exact fun same => crcStep_left_injective b (ih same)

theorem foldl_crcStep_set_ne {b b' : Byte} (differ : b' ≠ b) (s : List Byte) : ∀ (k : Nat) (acc : Byte), s[k]? = some b →
    (s.set k b').foldl crcStep acc ≠ s.foldl crcStep acc := by
  induction s with
  | nil => intro k acc at_k; cases at_k
  | cons c s ih =>
    intro k acc at_k
    match k with
    | 0 =>
      cases at_k
      intro same
      have sameStep : crcStep acc b' = crcStep acc b := foldl_crcStep_injective s same
      rw [crcStep_comm acc, crcStep_comm acc] at sameStep
      exact differ (crcStep_left_injective acc sameStep)
    | k + 1 => exact ih k (crcStep acc c) at_k

/-- A change of any one byte changes the CRC. -/
theorem crc8_set_ne {s : List Byte} {k : Nat} {b b' : Byte} (at_k : s[k]? = some b) (differ : b' ≠ b) :
    crc8 (s.set k b') ≠ crc8 s :=
  foldl_crcStep_set_ne differ s k CRC_INIT at_k

theorem flip_ne (b : Byte) {j : Nat} (inByte : j < 8) : b ^^^ (1#8 <<< j) ≠ b := by
  intro same
  have oneBit : ∀ j < 8, 1#8 <<< j ≠ 0#8 := by decide
  refine oneBit j inByte ((BitVec.xor_left_inj b).mp ?_)
  rw [BitVec.xor_comm, same, BitVec.zero_xor]

/-- Settles O9: a flipped bit changes its byte. -/
theorem singleBitFlipChangesTheCrc : Obligations.SingleBitFlipChangesTheCrc := fun _ _ _ b at_k inByte =>
  crc8_set_ne at_k (flip_ne b inByte)

end Sys2Proof.Machine
end

section
/-! UNSTUFF (42_decoder.md R114) and the frame (41_encoder.md R92 to R98): its length, its shape, and the reading back of its CRC field
and its body. -/

namespace Sys2Proof.Machine

/-! ### UNSTUFF, and UNSTUFF of STUFF -/

@[simp] theorem unstuff_nil : unstuff [] = some [] := rfl

@[simp] theorem unstuff_trailing_escape : unstuff [ESCAPE] = none := rfl

@[simp] theorem unstuff_escape (x : Byte) (t : List Byte) :
    unstuff (ESCAPE :: x :: t) = (unstuff t).map ((x ^^^ ESC_MASK) :: ·) := by
  simp only [unstuff, unstuffClass_ESCAPE]

theorem unstuff_literal {b : Byte} (notEscape : b ≠ ESCAPE) (t : List Byte) : unstuff (b :: t) = (unstuff t).map (b :: ·) := by
  cases t <;> simp [unstuff, unstuffClass_literal notEscape]

/-- Settles O12: the equations of UNSTUFF. -/
theorem unstuffReadsEscapePairs : Obligations.UnstuffReadsEscapePairs :=
  ⟨unstuff_nil, unstuff_trailing_escape, unstuff_escape, fun _ t notEscape => unstuff_literal notEscape t, by decide⟩

/-- Settles O13, by induction on the sequence: a pair is unmasked again, a literal is no ESCAPE. -/
theorem unstuffUndoesStuff : Obligations.UnstuffUndoesStuff := by
  intro s
  induction s with
  | nil => exact unstuff_nil
  | cons b s ih =>
    rw [stuff_cons]
    cases h : reserved b with
    | true => rw [stuff1_reserved h, List.cons_append, List.cons_append, List.nil_append, unstuff_escape, ih, xor_mask_mask]; rfl
    | false =>
      obtain ⟨-, -, notEscape⟩ := not_reserved h
      rw [stuff1_literal h, List.cons_append, List.nil_append, unstuff_literal notEscape, ih]; rfl

/-- START is no ESCAPE, so the body of a frame unstuffs to START, Index and payload. -/
theorem unstuff_frameBody (P : List Byte) (i : Byte) : unstuff (frameBody P i) = some (START :: i :: P) := by
  rw [frameBody_eq, unstuff_literal START_ne_ESCAPE, unstuffUndoesStuff]; rfl

/-! ### The length of a frame (41_encoder.md R96) -/

theorem length_frameOf (P : List Byte) (i : Byte) :
    (frameOf P i).length = P.length + 4 + (i :: crc8 (frameBody P i) :: P).countP reserved := by
  simp only [frameOf_eq, List.length_cons, List.length_append, length_stuff, List.countP_cons, List.countP_append,
    List.length_nil, List.countP_nil]
  omega

/-- Settles O17: of the `n + 2` bytes that are stuffed, any number can be reserved. -/
theorem frameLengthCountsReservedBytes : Obligations.FrameLengthCountsReservedBytes := by
  intro P i
  have count := length_frameOf P i
  have atMost : (i :: crc8 (frameBody P i) :: P).countP reserved ≤ P.length + 2 := List.countP_le_length
  refine ⟨count, ?_, ?_⟩ <;> omega

/-- Settles O50: PAYLOAD_MAX bounds the payload, hence the frame. -/
theorem recommendedBufferFitsEveryFrame : Obligations.RecommendedBufferFitsEveryFrame := by
  intro p m P i bound room within
  rw [bound, Limit.admits_finite, decide_eq_true_eq] at within
  obtain ⟨-, -, atMost⟩ := frameLengthCountsReservedBytes P i
  exact Limit.admits_of_le (by omega) room

/-! ### Where the delimiters and ESCAPE stand (41_encoder.md R97) -/

theorem getElem?_concat_eq_some_iff {l : List Byte} {a b : Byte} {k : Nat} :
    (l ++ [a])[k]? = some b ↔ l[k]? = some b ∨ (k = l.length ∧ a = b) := by
  rw [List.getElem?_append]
  split
  next inside =>
    have notLast : k ≠ l.length := Nat.ne_of_lt inside
    simp [notLast]
  next outside =>
    rw [List.getElem?_eq_none (Nat.not_lt.mp outside), List.getElem?_singleton]
    have atEnd : k - l.length = 0 ↔ k = l.length := by omega
    simp [atEnd]

/-- An ESCAPE in a stuffed sequence opens a pair, so none stands last. -/
theorem getLast?_stuff_ne_ESCAPE (s : List Byte) : (stuff s).getLast? ≠ some ESCAPE := by
  intro last
  obtain ⟨front, split⟩ := List.getLast?_eq_some_iff.mp last
  have escapeAt : (stuff s)[front.length]? = some ESCAPE := by rw [split, List.getElem?_concat_length]
  obtain ⟨x, -, next⟩ := escape_in_stuff_opens_pair s _ escapeAt
  simp [split] at next

theorem getLast?_frameBody_ne_ESCAPE (P : List Byte) (i : Byte) : (frameBody P i).getLast? ≠ some ESCAPE := by
  have inStuffed := getLast?_stuff_ne_ESCAPE (i :: P)
  rw [frameBody_eq, List.getLast?_cons]
  cases last : (stuff (i :: P)).getLast? with
  | none => decide
  | some c => exact last ▸ inStuffed

/-- A frame between its delimiters: stuffed bytes only (41_encoder.md R91). -/
theorem frameOf_eq_concat (P : List Byte) (i : Byte) : frameOf P i = (frameBody P i ++ stuff1 (crc8 (frameBody P i))) ++ [FINISH] := rfl

/-- The CRC field that STUFF1 makes is read back after any body that does not end in ESCAPE (42_decoder.md R108). -/
theorem crcExtract_stuff1 {body : List Byte} (c : Byte) (notEscape : body.getLast? ≠ some ESCAPE) :
    crcExtract (body ++ stuff1 c) = some (c, body) := by
  refine crcExtract_field ?_
  cases h : reserved c with
  | true => exact .inl (by rw [stuff1_reserved h])
  | false => exact .inr ⟨by rw [stuff1_literal h], notEscape⟩

theorem getElem?_frameOf_START (P : List Byte) (i : Byte) (k : Nat) : (frameOf P i)[k]? = some START ↔ k = 0 := by
  rw [frameOf_eq]
  match k with
  | 0 => exact ⟨fun _ => rfl, fun _ => rfl⟩
  | k + 1 =>
    refine ⟨fun at_k => ?_, fun zero => absurd zero (Nat.succ_ne_zero k)⟩
    rw [List.getElem?_cons_succ, getElem?_concat_eq_some_iff] at at_k
    rcases at_k with inside | ⟨-, isFinish⟩
    · exact absurd rfl (ne_delimiter_of_mem_stuff (List.mem_of_getElem? inside)).1
    · exact absurd isFinish START_ne_FINISH.symm

theorem getElem?_frameOf_FINISH (P : List Byte) (i : Byte) (k : Nat) :
    (frameOf P i)[k]? = some FINISH ↔ k + 1 = (frameOf P i).length := by
  rw [frameOf_eq, List.length_cons, List.length_append, List.length_singleton]
  match k with
  | 0 => exact ⟨fun at_0 => absurd (Option.some.inj at_0) START_ne_FINISH, fun short => by omega⟩
  | k + 1 =>
    rw [List.getElem?_cons_succ, getElem?_concat_eq_some_iff]
    constructor
    · rintro (inside | ⟨rfl, -⟩)
      · exact absurd rfl (ne_delimiter_of_mem_stuff (List.mem_of_getElem? inside)).2
      · rfl
    · exact fun last => .inr ⟨by omega, rfl⟩

theorem getElem?_frameOf_ESCAPE {P : List Byte} {i : Byte} {k : Nat} (at_k : (frameOf P i)[k]? = some ESCAPE) :
    ∃ x ∈ [0x5D#8, 0x5E#8, 0x5F#8], (frameOf P i)[k + 1]? = some x := by
  rw [frameOf_eq] at at_k ⊢
  match k with
  | 0 => exact absurd (Option.some.inj at_k) START_ne_ESCAPE
  | k + 1 =>
    rw [List.getElem?_cons_succ, getElem?_concat_eq_some_iff] at at_k
    rcases at_k with inside | ⟨-, isFinish⟩
    · obtain ⟨x, hx, next⟩ := escape_in_stuff_opens_pair _ k inside
      exact ⟨x, hx, by rw [List.getElem?_cons_succ, getElem?_concat_eq_some_iff]; exact .inl next⟩
    · exact absurd isFinish FINISH_ne_ESCAPE

/-- The last three bytes of a frame whose CRC is not reserved: the end of the body, the CRC, FINISH. -/
theorem frameOf_plain_end {P : List Byte} {i : Byte} (plain : reserved (crc8 (frameBody P i)) = false) :
    (frameOf P i)[(frameOf P i).length - 2]? = some (crc8 (frameBody P i))
      ∧ (frameOf P i)[(frameOf P i).length - 3]? ≠ some ESCAPE := by
  have frame : frameOf P i = frameBody P i ++ [crc8 (frameBody P i), FINISH] := by
    rw [frameOf_eq_concat, stuff1_literal plain, List.append_assoc]; rfl
  have nonempty : 0 < (frameBody P i).length := by rw [frameBody_eq]; exact Nat.succ_pos _
  have length : (frameOf P i).length = (frameBody P i).length + 2 := by rw [frame, List.length_append]; rfl
  constructor
  · rw [length, frame, Nat.add_sub_cancel, List.getElem?_append_right le_rfl, Nat.sub_self]; rfl
  · rw [length, frame, show (frameBody P i).length + 2 - 3 = (frameBody P i).length - 1 by omega,
      List.getElem?_append_left (Nat.sub_lt nonempty Nat.one_pos), ← List.getLast?_eq_getElem?]
    exact getLast?_frameBody_ne_ESCAPE P i

/-- The last three bytes of a frame whose CRC is reserved: its escape pair, FINISH. -/
theorem frameOf_escaped_end {P : List Byte} {i : Byte} (escaped : reserved (crc8 (frameBody P i)) = true) :
    (frameOf P i)[(frameOf P i).length - 2]? = some (crc8 (frameBody P i) ^^^ ESC_MASK)
      ∧ (frameOf P i)[(frameOf P i).length - 3]? = some ESCAPE := by
  have frame : frameOf P i = frameBody P i ++ [ESCAPE, crc8 (frameBody P i) ^^^ ESC_MASK, FINISH] := by
    rw [frameOf_eq_concat, stuff1_reserved escaped, List.append_assoc]; rfl
  have length : (frameOf P i).length = (frameBody P i).length + 3 := by rw [frame, List.length_append]; rfl
  constructor
  · rw [length, frame, show (frameBody P i).length + 3 - 2 = (frameBody P i).length + 1 by omega,
      List.getElem?_append_right (Nat.le_add_right _ 1), Nat.add_sub_cancel_left]; rfl
  · rw [length, frame, Nat.add_sub_cancel, List.getElem?_append_right le_rfl, Nat.sub_self]; rfl

/-- Settles O18: the three bytes by position, and the two forms of the end. -/
theorem frameShape : Obligations.FrameShape := fun P i k =>
  ⟨getElem?_frameOf_START P i k, getElem?_frameOf_FINISH P i k, getElem?_frameOf_ESCAPE, frameOf_plain_end, frameOf_escaped_end⟩

/-- The Index values whose CRC after START needs escaping (41_encoder.md R98). -/
theorem reserved_crc8_empty_iff : ∀ i : Byte,
    reserved (crc8 ([START] ++ stuff1 i)) = true ↔ i = 0x1D#8 ∨ i = 0x5C#8 ∨ i = 0xA1#8 := by decide +kernel

/-- Settles O19: an empty payload adds nothing after the Index. -/
theorem emptyPayloadFrames : Obligations.EmptyPayloadFrames := by
  refine fun i => ⟨?_, reserved_crc8_empty_iff i⟩
  rw [frameOf, frameBody, stuff_nil, List.append_nil]

end Sys2Proof.Machine
end

section
/-! FEED over a whole frame (42_decoder.md section 4): the open frame takes data bytes while they fit, and CLOSE decides on what it took. -/

namespace Sys2Proof.Machine

/-! ### Data bytes in a row -/

section DataBytes

variable {s : State} {D : List Byte}

/-- Appending moves one byte from what is to come into the buffer. -/
theorem length_bufAppend_add (s : State) (d : Byte) (D : List Byte) :
    (s.bufAppend d).buffer.length + D.length = s.buffer.length + (d :: D).length := by
  rw [State.bufAppend_buffer, List.length_append, List.length_singleton, List.length_cons, Nat.add_assoc, Nat.add_comm 1]

theorem feed_idle (idle : s.processing = false) (noStart : ∀ d ∈ D, d ≠ START) : s.feed D = s := by
  induction D with
  | nil => rfl
  | cons d D ih =>
    obtain ⟨notStart, noStart⟩ := List.forall_mem_cons.mp noStart
    rw [State.feed_cons, feedByte_idle idle notStart, ih noStart]

theorem feed_data_fits (inFrame : s.processing = true) (data : ∀ d ∈ D, d ≠ START ∧ d ≠ FINISH)
    (fits : s.params.bufCap.admits (s.buffer.length + D.length) = true) :
    s.feed D = { s with buffer := s.buffer ++ D } := by
  induction D generalizing s with
  | nil => rw [List.append_nil]; rfl
  | cons d D ih =>
    obtain ⟨⟨notStart, notFinish⟩, data⟩ := List.forall_mem_cons.mp data
    have room : s.hasRoom = true := Limit.admits_of_le (by simp) fits
    rw [State.feed_cons, feedByte_append inFrame notStart notFinish room,
      ih (s := s.bufAppend d) inFrame data (by rwa [length_bufAppend_add]), State.bufAppend_buffer, List.append_assoc]
    rfl

/-- The first byte without room abandons the frame, and IDLE discards what follows (42_decoder.md R106, R102). -/
theorem feed_data_overflows (inFrame : s.processing = true) (data : ∀ d ∈ D, d ≠ START ∧ d ≠ FINISH) (nonempty : D ≠ [])
    (long : s.params.bufCap.admits (s.buffer.length + D.length) = false) : s.feed D = s.toIdle := by
  induction D generalizing s with
  | nil => exact absurd rfl nonempty
  | cons d D ih =>
    obtain ⟨⟨notStart, notFinish⟩, data⟩ := List.forall_mem_cons.mp data
    rw [State.feed_cons]
    cases room : s.hasRoom with
    | false =>
      rw [feedByte_overflow inFrame notStart notFinish room]
      exact feed_idle rfl fun b hb => (data b hb).1
    | true =>
      have more : D ≠ [] := by
        rintro rfl
        exact absurd (room.symm.trans long) (by decide)
      rw [feedByte_append inFrame notStart notFinish room]
      exact ih (s := s.bufAppend d) inFrame data more (by rwa [length_bufAppend_add])

end DataBytes

/-! ### START, data, FINISH, from any state -/

section WholeFrame

variable {s : State} {D : List Byte} (data : ∀ d ∈ D, d ≠ START ∧ d ≠ FINISH)
include data

theorem feed_START_data_fits (fits : s.params.bufCap.admits (D.length + 1) = true) :
    s.feed (START :: D) = { s with processing := true, buffer := START :: D } := by
  rw [State.feed_cons, feedByte_START]
  exact feed_data_fits (s := { s with processing := true, buffer := [START] }) rfl data
    (by rw [List.length_singleton, Nat.add_comm]; exact fits)

theorem feed_START_data_overflows (nonempty : D ≠ []) (long : s.params.bufCap.admits (D.length + 1) = false) :
    s.feed (START :: D) = s.toIdle := by
  rw [State.feed_cons, feedByte_START]
  exact feed_data_overflows (s := { s with processing := true, buffer := [START] }) rfl data nonempty
    (by rw [List.length_singleton, Nat.add_comm]; exact long)

theorem feed_closed_fits (fits : s.params.bufCap.admits (D.length + 1) = true) :
    s.feed (START :: D ++ [FINISH]) = State.close { s with processing := true, buffer := START :: D } := by
  rw [State.feed_append, feed_START_data_fits data fits]
  exact feedByte_FINISH (s := { s with processing := true, buffer := START :: D }) rfl

theorem feed_closed_overflows (nonempty : D ≠ []) (long : s.params.bufCap.admits (D.length + 1) = false) :
    s.feed (START :: D ++ [FINISH]) = s.toIdle := by
  rw [State.feed_append, feed_START_data_overflows data nonempty long]
  exact feedByte_idle (s := s.toIdle) rfl START_ne_FINISH.symm

end WholeFrame

/-! ### An encoded frame (42_decoder.md R117, R119, R121) -/

/-- What stands between the delimiters of the frame of `P` and `i`: Index, payload and CRC, stuffed (41_encoder.md R92). -/
def frameData (P : List Byte) (i : Byte) : List Byte := stuff (i :: (P ++ [crc8 (frameBody P i)]))

theorem frameOf_eq_frameData (P : List Byte) (i : Byte) : frameOf P i = START :: frameData P i ++ [FINISH] := frameOf_eq P i

/-- What the buffer holds when the FINISH of a frame arrives: the body and the CRC field. -/
theorem START_frameData (P : List Byte) (i : Byte) :
    START :: frameData P i = frameBody P i ++ stuff1 (crc8 (frameBody P i)) :=
  List.append_cancel_right ((frameOf_eq_frameData P i).symm.trans (frameOf_eq_concat P i))

theorem frameData_noDelimiter (P : List Byte) (i : Byte) : ∀ d ∈ frameData P i, d ≠ START ∧ d ≠ FINISH :=
  fun _ => ne_delimiter_of_mem_stuff

theorem length_frameOf_sub_one (P : List Byte) (i : Byte) : (frameOf P i).length - 1 = (frameData P i).length + 1 := by
  rw [frameOf_eq_frameData, List.length_append, List.length_cons]; rfl

theorem frameData_ne_nil (P : List Byte) (i : Byte) : frameData P i ≠ [] := by
  have long := length_frameOf P i
  have inner := length_frameOf_sub_one P i
  intro empty
  rw [empty, List.length_nil] at inner
  omega

theorem crcExtract_frameData (P : List Byte) (i : Byte) :
    crcExtract (START :: frameData P i) = some (crc8 (frameBody P i), frameBody P i) := by
  rw [START_frameData]
  exact crcExtract_stuff1 _ (getLast?_frameBody_ne_ESCAPE P i)

/-- A buffer whose CRC field gives the body of a frame and its CRC is accepted as that frame's packet. -/
theorem closeFrame_of_frameBody {B P : List Byte} {i : Byte}
    (extracted : crcExtract B = some (crc8 (frameBody P i), frameBody P i)) : closeFrame B = .accept (i :: P) :=
  closeFrame_of_packet extracted rfl (unstuff_frameBody P i) (List.cons_ne_nil i P)

theorem feed_frameOf_fits {s : State} {P : List Byte} {i : Byte}
    (fits : s.params.bufCap.admits ((frameOf P i).length - 1) = true) :
    s.feed (frameOf P i) = { s with processing := false, buffer := [], lastPacket := some (i :: P), available := true } := by
  rw [length_frameOf_sub_one] at fits
  rw [frameOf_eq_frameData, feed_closed_fits (frameData_noDelimiter P i) fits]
  exact close_of_accept (closeFrame_of_frameBody (crcExtract_frameData P i))

/-- Settles O48: the frame is read alike from the state the garbage leaves, and what it leaves of the packet is overwritten. -/
theorem frameAfterAnyGarbageIsDecoded : Obligations.FrameAfterAnyGarbageIsDecoded := by
  intro s G P i fits
  obtain ⟨params, pending, result, emitted⟩ := s.feed_frame G
  rw [State.feed_append, feed_frameOf_fits (by rwa [params]), params, pending, result, emitted]

/-- Settles O49: the overflow branch of a whole frame. -/
theorem frameTooLongForTheBufferIsDropped : Obligations.FrameTooLongForTheBufferIsDropped := by
  intro s P i long
  rw [length_frameOf_sub_one] at long
  rw [frameOf_eq_frameData]
  exact feed_closed_overflows (frameData_noDelimiter P i) (frameData_ne_nil P i) long

/-- Settles O51: the body does not end in ESCAPE, so an unescaped CRC is read as a field of one byte, whatever its value. -/
theorem unescapedEscapeAsCrcIsAccepted : Obligations.UnescapedEscapeAsCrcIsAccepted := by
  intro s P i isEscape fits
  have data : ∀ d ∈ stuff (i :: P) ++ [ESCAPE], d ≠ START ∧ d ≠ FINISH := by
    intro d hd
    rcases List.mem_append.mp hd with inside | last
    · exact ne_delimiter_of_mem_stuff inside
    · rw [List.mem_singleton.mp last]
      exact ⟨START_ne_ESCAPE.symm, FINISH_ne_ESCAPE.symm⟩
  have bytes : frameBody P i ++ [ESCAPE, FINISH] = START :: (stuff (i :: P) ++ [ESCAPE]) ++ [FINISH] := by
    rw [frameBody_eq, List.cons_append, List.cons_append, List.append_assoc]; rfl
  have extracted : crcExtract (START :: (stuff (i :: P) ++ [ESCAPE])) = some (crc8 (frameBody P i), frameBody P i) := by
    rw [isEscape, ← List.cons_append, ← frameBody_eq]
    exact crcExtract_plain ESCAPE (getLast?_frameBody_ne_ESCAPE P i)
  have room : s.params.bufCap.admits ((stuff (i :: P) ++ [ESCAPE]).length + 1) = true := by
    rw [frameBody_eq] at fits
    rwa [List.length_append]
  rw [bytes, feed_closed_fits data room]
  exact close_of_accept (closeFrame_of_frameBody extracted)

/-! ### A frame with one byte changed (42_decoder.md R122 part a) -/

theorem getLast?_set_ne_ESCAPE {l : List Byte} {b : Byte} (k : Nat) (before : l.getLast? ≠ some ESCAPE) (notEscape : b ≠ ESCAPE) :
    (l.set k b).getLast? ≠ some ESCAPE := by
  rw [List.getLast?_eq_getElem?, List.length_set]
  by_cases last : k = l.length - 1
  · intro isEscape
    rcases List.mem_or_eq_of_mem_set (List.mem_of_getElem? isEscape) with inside | same
    · subst last
      rw [List.getElem?_set_self (by have := List.length_pos_of_mem inside; omega)] at isEscape
      exact notEscape (Option.some.inj isEscape)
    · exact notEscape same.symm
  · rw [List.getElem?_set_ne last, ← List.getLast?_eq_getElem?]
    exact before

/-- Changing one byte before FINISH, reserved neither before nor after, leaves the CRC field where it is and changes the CRC or the
body, not both. -/
theorem closeFrame_set_eq_dropCrc {body : List Byte} {b b' : Byte} {k : Nat} (notEscape : body.getLast? ≠ some ESCAPE)
    (at_k : (body ++ stuff1 (crc8 body))[k]? = some b) (differ : b' ≠ b) (old : reserved b = false) (new : reserved b' = false) :
    closeFrame ((body ++ stuff1 (crc8 body)).set k b') = .dropCrc := by
  by_cases inBody : k < body.length
  · rw [List.getElem?_append_left inBody] at at_k
    rw [List.set_append_left _ _ inBody]
    obtain ⟨-, -, newNotEscape⟩ := not_reserved new
    exact closeFrame_of_mismatch (crcExtract_stuff1 _ (getLast?_set_ne_ESCAPE k notEscape newNotEscape))
      (crc8_set_ne at_k differ)
  · obtain ⟨m, rfl⟩ := Nat.exists_eq_add_of_le (Nat.not_lt.mp inBody)
    rw [List.getElem?_append_right (Nat.le_add_right _ m), Nat.add_sub_cancel_left] at at_k
    rw [List.set_append_right _ _ (Nat.le_add_right _ m), Nat.add_sub_cancel_left]
    cases h : reserved (crc8 body) with
    | false =>
      rw [stuff1_literal h] at at_k ⊢
      match m with
      | 0 =>
        cases at_k
        exact closeFrame_of_mismatch (crcExtract_plain b' notEscape) differ.symm
    | true =>
      rw [stuff1_reserved h] at at_k ⊢
      match m with
      | 0 => cases at_k; cases old
      | 1 =>
        cases at_k
        refine closeFrame_of_mismatch (crcExtract_escaped body b') fun same => differ ?_
        rw [same, xor_mask_mask]

/-- Only a FINISH can store a packet (42_decoder.md R116). -/
theorem feed_packet_of_no_FINISH {D : List Byte} (noFinish : ∀ d ∈ D, d ≠ FINISH) : ∀ s : State,
    (s.feed D).lastPacket = s.lastPacket ∧ (s.feed D).available = s.available := by
  induction D with
  | nil => exact fun _ => ⟨rfl, rfl⟩
  | cons d D ih =>
    intro s
    obtain ⟨notFinish, noFinish⟩ := List.forall_mem_cons.mp noFinish
    have one : (s.feedByte d).lastPacket = s.lastPacket ∧ (s.feedByte d).available = s.available := by
      rcases s.feedByte_cases d with
        ⟨-, -, e⟩ | ⟨-, -, e⟩ | ⟨-, -, e⟩ | ⟨-, isFinish, -⟩ | ⟨-, -, -, -, e⟩ | ⟨-, -, -, -, e⟩
      case inr.inr.inr.inl => exact absurd isFinish notFinish
      all_goals rw [e]; exact ⟨rfl, rfl⟩
    obtain ⟨packet, available⟩ := ih noFinish (s.feedByte d)
    exact ⟨packet.trans one.1, available.trans one.2⟩

/-- A sequence of data bytes whose closure fails its CRC leaves the packet slot alone, whether it fits or not. -/
theorem feed_closed_dropCrc {D : List Byte} (data : ∀ d ∈ D, d ≠ START ∧ d ≠ FINISH) (nonempty : D ≠ [])
    (dropped : closeFrame (START :: D) = .dropCrc) (s : State) : s.feed (START :: D ++ [FINISH]) = s.toIdle := by
  cases fits : s.params.bufCap.admits (D.length + 1) with
  | true => rw [feed_closed_fits data fits, close_of_dropCrc dropped]; rfl
  | false => exact feed_closed_overflows data nonempty fits

/-- Short of its FINISH such a sequence stores nothing, and with it nothing either. -/
theorem feed_take_packet_of_dropCrc {D : List Byte} (data : ∀ d ∈ D, d ≠ START ∧ d ≠ FINISH) (nonempty : D ≠ [])
    (dropped : closeFrame (START :: D) = .dropCrc) (s : State) (n : Nat) :
    (s.feed ((START :: D ++ [FINISH]).take n)).lastPacket = s.lastPacket
      ∧ (s.feed ((START :: D ++ [FINISH]).take n)).available = s.available := by
  by_cases short : n ≤ (START :: D).length
  · rw [List.take_append_of_le_length short]
    refine feed_packet_of_no_FINISH (fun d hd => ?_) s
    rcases List.mem_cons.mp (List.mem_of_mem_take hd) with rfl | inside
    · exact START_ne_FINISH
    · exact (data d inside).2
  · rw [List.take_of_length_le (by rw [List.length_append, List.length_singleton]; omega),
      feed_closed_dropCrc data nonempty dropped]
    exact ⟨rfl, rfl⟩

/-- A byte changed between the delimiters of a frame is one of its stuffed bytes. -/
theorem frameOf_set {P : List Byte} {i : Byte} {m : Nat} (inside : m < (frameData P i).length) (b : Byte) :
    (frameOf P i).set (m + 1) b = START :: (frameData P i).set m b ++ [FINISH] := by
  rw [frameOf_eq_frameData, List.set_append_left _ _ (Nat.succ_lt_succ inside), List.set_cons_succ]

theorem frameData_set_noDelimiter {P : List Byte} {i b : Byte} (m : Nat) (plain : reserved b = false) :
    ∀ d ∈ (frameData P i).set m b, d ≠ START ∧ d ≠ FINISH := by
  intro d hd
  rcases List.mem_or_eq_of_mem_set hd with old | rfl
  · exact frameData_noDelimiter P i d old
  · obtain ⟨notStart, notFinish, -⟩ := not_reserved plain
    exact ⟨notStart, notFinish⟩

theorem closeFrame_frameData_set {P : List Byte} {i b b' : Byte} {m : Nat} (at_m : (frameData P i)[m]? = some b) (differ : b' ≠ b)
    (old : reserved b = false) (new : reserved b' = false) : closeFrame (START :: (frameData P i).set m b') = .dropCrc := by
  rw [← List.set_cons_succ, START_frameData]
  refine closeFrame_set_eq_dropCrc (getLast?_frameBody_ne_ESCAPE P i) ?_ differ old new
  rw [← START_frameData, List.getElem?_cons_succ, at_m]

/-- Settles O52: the flipped byte is one of the frame's data bytes and stays one, and the closure fails its CRC. -/
theorem classPreservingBitFlipIsNeverAccepted : Obligations.ClassPreservingBitFlipIsNeverAccepted := by
  intro s P i b k j _ afterStart beforeFinish at_k inByte old new
  obtain ⟨m, rfl⟩ := Nat.exists_eq_succ_of_ne_zero afterStart.ne'
  have inside : m < (frameData P i).length := by
    have length := length_frameOf_sub_one P i
    omega
  have at_m : (frameData P i)[m]? = some b := by
    rwa [frameOf_eq_frameData, List.cons_append, List.getElem?_cons_succ, List.getElem?_append_left inside] at at_k
  have data := frameData_set_noDelimiter (P := P) (i := i) m new
  have dropped := closeFrame_frameData_set at_m (flip_ne b inByte) old new
  rw [frameOf_set inside]
  refine ⟨feed_take_packet_of_dropCrc data (by simpa using frameData_ne_nil P i) dropped s, fun fits => ?_⟩
  rw [length_frameOf_sub_one, ← List.length_set (i := m) (a := b ^^^ (1#8 <<< j))] at fits
  rw [List.dropLast_concat, feed_START_data_fits data fits, feedLabel_FINISH rfl, dropped]
  rfl

end Sys2Proof.Machine
end

section
/-! Programs (43_decoder_access.md R130, 42_decoder.md R118, R117 as a run): what the host issues to a machine with nothing pending runs one
operation a step, and no operation reads or writes what is still to come. -/

namespace Sys2Proof.Machine

/-! ### Operations and what is pending -/

theorem feedByte_pending (s : State) (d : Byte) (p : List Arrival) :
    ({ s with pending := p } : State).feedByte d = { s.feedByte d with pending := p } := by
  obtain ⟨-, -, result, emitted⟩ := s.feedByte_frame d
  calc ({ s with pending := p } : State).feedByte d
      = { s.feedByte d with pending := p, result := s.result, emitted := s.emitted } := s.feedByte_hostSide d p s.result s.emitted
    _ = { s.feedByte d with pending := p } := by rw [← result, ← emitted]

theorem feed_answer (s : State) (ds : List Byte) (r : Result) : (s.answer r).feed ds = (s.feed ds).answer r := by
  obtain ⟨-, pending, -, emitted⟩ := s.feed_frame ds
  calc (s.answer r).feed ds
      = { s.feed ds with pending := s.pending, result := r, emitted := s.emitted } := s.feed_hostSide ds s.pending r s.emitted
    _ = (s.feed ds).answer r := by rw [← pending, ← emitted]; rfl

/-- A host operation runs alike whatever is pending after it. -/
theorem exec_pending {i : Instr} {s t : State} (operation : i.isHostOperation = true) (completes : exec i s = .next t)
    (p : List Arrival) : exec i { s with pending := p } = .next { t with pending := p } := by
  rcases (isHostOperation_iff i).mp operation with ⟨idx, P, rfl⟩ | ⟨d, rfl⟩ | rfl | rfl | rfl
  · obtain ⟨fits, rfl⟩ := next_of_exec_encode completes
    exact exec_encode_fits fits
  · cases completes
    rw [exec_feedByte, feedByte_pending]; rfl
  · cases completes; rfl
  · cases held : s.heldPacket with
    | some packet =>
      rw [exec_take_some held] at completes
      cases completes
      exact exec_take_some held
    | none =>
      rw [exec_take_none held] at completes
      cases completes
      exact exec_take_none held
  · cases completes; rfl

theorem pending_of_exec {i : Instr} {s t : State} (completes : exec i s = .next t) : t.pending = s.pending := by
  obtain ⟨-, pending, -⟩ := fieldsHaveTheirWritersOnly i s t completes
  exact pending

@[simp] theorem issue_nil (s : State) : s.issue [] = s := by
  simp [State.issue]

/-- The first operation of a program runs, and the rest of the program is what is issued to the state it gives. -/
theorem run_issue_cons {i : Instr} {s t : State} (n : Nat) (is : List Instr) (nothing : s.pending = [])
    (operation : i.isHostOperation = true) (completes : exec i s = .next t) :
    run (n + 1) (s.issue (i :: is)) = run n (t.issue is) := by
  have nothing' : t.pending = [] := (pending_of_exec completes).trans nothing
  have later : t.issue is = { t with pending := is.map fun j => Arrival.ofWord (encode j) } := by
    simp only [State.issue, nothing', List.nil_append]
  have oldest : (s.issue (i :: is)).pending = Arrival.ofWord (encode i) :: is.map fun j => Arrival.ofWord (encode j) := by
    simp only [State.issue, nothing, List.nil_append, List.map_cons]
  refine run_succ n ?_
  rw [step_word oldest (Arrival.word_ofWord _) (decode_encode (wellFormed_of_isHostOperation operation)), later]
  exact exec_pending operation completes _

/-! ### FEED and the round trip as a run -/

/-- FEED at the head of a program: its bytes one step each, then the rest of the program. -/
theorem run_issue_feed (ds : List Byte) (n : Nat) (is : List Instr) : ∀ s : State, s.pending = [] →
    run (ds.length + n) (s.issue (ds.map .feedByte ++ is))
      = run n (((s.feed ds).answer (if ds = [] then s.result else .nothing)).issue is) := by
  induction ds with
  | nil =>
    intro s _
    rw [List.length_nil, Nat.zero_add]
    rfl
  | cons d ds ih =>
    intro s nothing
    have nothing' : ((s.feedByte d).answer .nothing).pending = [] := (pending_of_exec (exec_feedByte d s)).trans nothing
    rw [List.length_cons, Nat.add_right_comm, List.map_cons, List.cons_append,
      run_issue_cons _ _ nothing rfl (exec_feedByte d s), ih _ nothing', feed_answer, State.answer_result, ite_self,
      if_neg (List.cons_ne_nil d ds)]
    rfl

theorem load_feed (s : State) (ds : List Byte) : s.load [.feed ds] = s.issue (ds.map .feedByte ++ []) := rfl

theorem load_feed_take (s : State) (ds : List Byte) : s.load [.feed ds, .take] = s.issue (ds.map .feedByte ++ [.take]) := rfl

/-- Settles O44: FEED as the whole program. -/
theorem feedRunsOneStepPerByte : Obligations.FeedRunsOneStepPerByte := by
  intro s ds nothing
  calc run ds.length (s.load [.feed ds])
      = run (ds.length + 0) (s.issue (ds.map .feedByte ++ [])) := by rw [load_feed, Nat.add_zero]
    _ = run 0 (((s.feed ds).answer (if ds = [] then s.result else .nothing)).issue []) := run_issue_feed ds 0 [] s nothing
    _ = .next { s.feed ds with result := if ds = [] then s.result else .nothing } := by rw [issue_nil]; rfl

theorem frameOf_ne_nil (P : List Byte) (i : Byte) : frameOf P i ≠ [] := by
  rw [frameOf_eq_frameData]
  exact List.cons_ne_nil _ _

/-- Settles O46: the run of FEED, and the fold over a frame that fits. -/
theorem roundTripFromAnyState : Obligations.RoundTripFromAnyState := by
  intro s P i nothing fits
  rw [feedRunsOneStepPerByte s (frameOf P i) nothing, feed_frameOf_fits fits, if_neg (frameOf_ne_nil P i)]

/-- Settles O47: after the frame's bytes the packet is held, and TAKE hands it over. -/
theorem encodeFeedTakeGivesBackThePacket : Obligations.EncodeFeedTakeGivesBackThePacket := by
  intro s P i nothing within fits
  refine ⟨frameOf P i, exec_encode_fits within, ?_⟩
  rw [load_feed_take, run_issue_feed _ 1 _ s nothing, feed_frameOf_fits fits]
  refine (run_issue_cons 0 [] ?_ rfl (exec_take_some (p := i :: P) rfl)).trans ?_
  · exact nothing
  · rw [issue_nil]
    rfl

/-! ### Bytes split by other operations (42_decoder.md R118) -/

/-- The byte an instruction feeds to the session. -/
def fedByte : Instr → Option Byte
  | .feedByte d => some d
  | _ => none

/-- An operation of R118's programs feeds its byte, if it has one, and answers. -/
theorem exec_feeds {i : Instr} {s : State}
    (h : (∃ d, i = .feedByte d) ∨ i = .available ∨ ∃ idx P, i = .encode idx P ∧ s.params.payloadMax.admits P.length = true) :
    i.isHostOperation = true ∧ ∃ r, exec i s = .next ((s.feed (fedByte i).toList).answer r) := by
  rcases h with ⟨d, rfl⟩ | rfl | ⟨idx, P, rfl, within⟩
  · exact ⟨rfl, _, exec_feedByte d s⟩
  · exact ⟨rfl, _, exec_available s⟩
  · exact ⟨rfl, _, exec_encode_fits within⟩

/-- Such a program gives the session that its bytes give, and some answer. -/
theorem run_issue_feeding (is : List Instr) : ∀ s : State, s.pending = [] →
    (∀ i ∈ is, (∃ d, i = .feedByte d) ∨ i = .available
      ∨ ∃ idx P, i = .encode idx P ∧ s.params.payloadMax.admits P.length = true) →
    ∃ r, run is.length (s.issue is) = .next ((s.feed (is.filterMap fedByte)).answer r) := by
  induction is with
  | nil => exact fun s _ _ => ⟨s.result, by rw [issue_nil]; rfl⟩
  | cons i is ih =>
    intro s nothing feeding
    obtain ⟨first, rest⟩ := List.forall_mem_cons.mp feeding
    obtain ⟨operation, r, completes⟩ := exec_feeds first
    obtain ⟨params, pending, -, -⟩ := s.feed_frame (fedByte i).toList
    obtain ⟨r', ran⟩ := ih ((s.feed (fedByte i).toList).answer r) (pending.trans nothing) (by
      rw [State.answer_params, params]; exact rest)
    have bytes : (i :: is).filterMap fedByte = (fedByte i).toList ++ is.filterMap fedByte := by
      cases h : fedByte i <;> simp [h]
    refine ⟨r', ?_⟩
    rw [List.length_cons, run_issue_cons _ _ nothing operation completes, ran, feed_answer, bytes, State.feed_append]
    rfl

/-- Settles O45: an answer is no session field. -/
theorem fragmentationDoesNotMatter : Obligations.FragmentationDoesNotMatter := by
  intro s is nothing feeding
  obtain ⟨r, ran⟩ := run_issue_feeding is s nothing feeding
  exact ⟨_, ran, rfl, rfl, rfl, rfl⟩

end Sys2Proof.Machine
end

section
/-! Several machines side by side (20_memory.md R51): a step of one reads and writes its own place in the list only. -/

namespace Sys2Proof.Machine

theorem stepInstance_of_step {k : Nat} {bank : List State} {s t : State} (present : bank[k]? = some s) (completes : step s = .next t) :
    stepInstance k bank = .next (bank.set k t) := by
  simp only [stepInstance, present, completes]

theorem getElem?_of_stepInstance_ne {k l : Nat} {bank b : List State} (other : k ≠ l) (completes : stepInstance k bank = .next b) :
    b[l]? = bank[l]? := by
  rcases stepInstance_cases completes with ⟨-, rfl⟩ | ⟨s, t, -, -, rfl⟩
  · rfl
  · exact List.getElem?_set_ne other

theorem stepInstance_own {k : Nat} {bank b : List State} {s : State} (completes : stepInstance k bank = .next b)
    (present : bank[k]? = some s) : ∃ t, step s = .next t ∧ b[k]? = some t := by
  rcases stepInstance_cases completes with ⟨absent, -⟩ | ⟨s', t, present', stepped, rfl⟩
  · cases absent.symm.trans present
  · cases present'.symm.trans present
    exact ⟨t, stepped, List.getElem?_set_self (List.getElem?_eq_some_iff.mp present).1⟩

/-- Writes at two places commute, and each step finds its own place as it was. -/
theorem stepInstance_comm {k l : Nat} {bank b₁ b₂ : List State} (other : k ≠ l) (first : stepInstance k bank = .next b₁)
    (second : stepInstance l b₁ = .next b₂) : ∃ b₃, stepInstance l bank = .next b₃ ∧ stepInstance k b₃ = .next b₂ := by
  have untouched := getElem?_of_stepInstance_ne other first
  rcases stepInstance_cases second with ⟨absent, rfl⟩ | ⟨u, v, present, stepped, rfl⟩
  · exact ⟨bank, stepInstance_absent (untouched.symm.trans absent), first⟩
  · have secondFirst := stepInstance_of_step (untouched.symm.trans present) stepped
    refine ⟨bank.set l v, secondFirst, ?_⟩
    have untouched' := getElem?_of_stepInstance_ne other.symm secondFirst
    rcases stepInstance_cases first with ⟨absent, rfl⟩ | ⟨s, t, present', stepped', rfl⟩
    · exact stepInstance_absent (untouched'.trans absent)
    · rw [stepInstance_of_step (untouched'.trans present') stepped', List.set_comm _ _ other.symm]

/-- Settles O53: each clause for a step that writes its own place only. -/
theorem instancesAreIndependent : Obligations.InstancesAreIndependent := by
  intro k l bank b₁ other first
  refine ⟨getElem?_of_stepInstance_ne other first, fun s => stepInstance_own first, fun r => ?_,
    fun b₂ => stepInstance_comm other first⟩
  rw [stepInstance_refused_iff, stepInstance_refused_iff, getElem?_of_stepInstance_ne other first]

end Sys2Proof.Machine
end
